-- ==== Sys2Proof/Word.lean ====
section
/-! DEFINITION. Word.lean: the words of the block. A byte of a buffer is 8 bits, an address
(`recipient_id`, `own_id`) is 16 bits (rules R11, R33), a Frame as a value is a sequence of bytes (rule R61). -/

namespace Sys2Proof

/-- One byte of a buffer or of a frame. -/
abbrev Byte := BitVec 8

/-- A device address: `recipient_id` and `own_id` (rule R33, `ID_W` = 16). -/
abbrev Address := BitVec 16

/-- A Frame as a value: a sequence of `NB` bytes (rule R61). -/
abbrev Frame := List Byte

end Sys2Proof
end

