-- ==== Sys2Proof/Config.lean ====
section
/-! DEFINITION. Config.lean: the implementation parameters of rule R11 and the one free value of the spec.
The parameters the spec leaves OPEN are the fields of `Params`, those that rule R11 marks link-wide, of which a link carries
one, and of `DeviceParams`, those it does not, of which every device carries its own. No operation writes them (rule R50), so
a statement about every state is a statement about every value of every parameter. `NDEV` is the number of devices of the
link; `LegalLink` in Safety.lean bounds it. -/

namespace Sys2Proof

/-- The OPEN link-wide parameters of rule R11. Times are whole ticks (rule R12). -/
structure Params where
  /-- `PATH_LEN`: bytes of the `path` field. -/
  path_len : Nat
  /-- `T_BIT_HOLD`: the per-bit hold. -/
  t_bit_hold : Nat
  /-- `T_PULSE`: width of the strobe pulse. -/
  t_pulse : Nat
  /-- `T_FRAME_HOLD`: the inter-frame hold. -/
  t_frame_hold : Nat
  /-- `LINE_FAULTS`: whether the environment may lose, add or corrupt edges (rule R276). -/
  line_faults : Bool
deriving DecidableEq, Repr

/-- The OPEN parameters of rule R11 that are not link-wide: the receiver's own (rule R308). -/
structure DeviceParams where
  /-- `T_ABANDON`: quiet time after which a partial frame is abandoned. -/
  t_abandon : Nat
  /-- `T_REASM`: largest time between two reassembler invocations. -/
  t_reasm : Nat
  /-- `QUEUE_DEPTH`: capacity of the LinkQueue; `none` is the unbounded default. -/
  queue_depth : Option Nat
deriving DecidableEq, Repr

/-- `NB`: bytes of a Frame (rules R11, R90). -/
def Params.NB (c : Params) : Nat := c.path_len + 11

/-- `N`: bits of a Frame (rule R11). -/
def Params.N (c : Params) : Nat := 8 * c.NB

/-- `T_BIT`: the bit period, rising edge to rising edge (rules R11, R108). -/
def Params.T_BIT (c : Params) : Nat := 2 * c.t_bit_hold + c.t_pulse

/-- `OFFSET_W`: the smallest `w` with `2^w > N` (rule R11). -/
def Params.OFFSET_W (c : Params) : Nat := Nat.log2 c.N + 1

/-- Rules R311 and R312 for one receiver on a link with the parameters `c`. -/
abbrev DeviceParams.TimingLegal (p : DeviceParams) (c : Params) : Prop :=
  1 ≤ p.t_reasm ∧ p.t_reasm < c.T_BIT + c.t_frame_hold ∧
    c.T_BIT < p.t_abandon ∧ p.t_abandon + p.t_reasm < c.T_BIT + c.t_frame_hold

/-- The constraints of rule R11 on the link-wide parameters by themselves. -/
abbrev Params.Legal (c : Params) : Prop := 1 ≤ c.path_len ∧ 1 ≤ c.t_bit_hold

/-- The constraints of rule R11 on a device's own parameters. -/
abbrev DeviceParams.Legal (p : DeviceParams) (c : Params) : Prop := p.TimingLegal c ∧ p.queue_depth ≠ some 0

/-- The parameters of the link after reset: the spec's defaults (`PATH_LEN` 32, `T_PULSE` 0, no line faults; rule R11) and,
for the timing parameters that have no default, the values of configuration K2 of `95_test_vectors.md`. DESIGN CHOICE (log
entry 1), unsafe: a claim about the reset state alone is a claim about K2. -/
def Params.initial : Params :=
  { path_len := 32, t_bit_hold := 1, t_pulse := 0, t_frame_hold := 4, line_faults := false }

/-- The parameters of each device after reset: an unbounded queue (the default of rule R11) and the values of configuration
K2. DESIGN CHOICE (log entry 1), unsafe as `Params.initial` is. -/
def DeviceParams.initial : DeviceParams := { t_abandon := 3, t_reasm := 1, queue_depth := none }

/-- The level of the data line when no device drives it: an unspecified level (rule R271, `93` U3), so a free value.
Applied to the counter `free_count` of the state, it is a fresh unconstrained bit each time the undriven line is
resolved. Log entry 10, safe. -/
opaque Config.undrivenData : Nat → Bool

end Sys2Proof
end

