-- ==== Sys2Proof/Syntax.lean ====
section
/-! DEFINITION. Syntax.lean: the rows of spec/opcode_table.json as one inductive, `Instr`, one constructor per row
(rule R124), and the names the frame codec uses. An "instruction" of this block is one operation of rule R14, a `kind` code
of rule R102, or one of the two row names of rule R112 that are not operations.
The operand `x` is the number of the device at which the operation happens (rule R19 writes `X: OP`). -/

namespace Sys2Proof

/-- The kinds of a frame as `DECODE` reports them (rules R102, R116, R136). -/
inductive Kind where
  | unknown
  | requestOnly
  | float
  | double
  | int64
  | uint64
  /-- A code 6 to 255: no kind the source names, the byte preserved (rule R116). -/
  | reserved (b : Byte)
deriving DecidableEq, Repr

/-- The typed value of a decoded frame: a bit pattern and nothing else (rule R140). -/
inductive Value where
  | bits32 (v : BitVec 32)
  | bits64 (v : BitVec 64)
deriving DecidableEq, Repr

/-- The typed view of a Frame (rules R61, R136). -/
structure View where
  recipient_id : Address
  kind : Kind
  path : List Byte
  value : Option Value
deriving DecidableEq, Repr

/-- The formats of rules R100 and R124 that have rows in the opcode table. -/
inductive Format where
  | kind
  | samp
  | rvec
  | txph
  | hcmd
  | func
  | env
deriving DecidableEq, Repr

/-- One constructor per row of spec/opcode_table.json. -/
inductive Instr where
  -- FRAME.kind: the reading of a frame that carries the code (rules R102 to R104, R116)
  | kindUnknown (x : Nat) (rid : Address) (path : List Byte) (val : BitVec 64)
  | kindRequestOnly (x : Nat) (rid : Address) (path : List Byte) (val : BitVec 64)
  | kindFloat (x : Nat) (rid : Address) (path : List Byte) (val : BitVec 64)
  | kindDouble (x : Nat) (rid : Address) (path : List Byte) (val : BitVec 64)
  | kindInt64 (x : Nat) (rid : Address) (path : List Byte) (val : BitVec 64)
  | kindUint64 (x : Nat) (rid : Address) (path : List Byte) (val : BitVec 64)
  | kindReserved6 (x : Nat) (b : BitVec 1) (rid : Address) (path : List Byte) (val : BitVec 64)
  | kindReserved8 (x : Nat) (b : BitVec 3) (rid : Address) (path : List Byte) (val : BitVec 64)
  | kindReserved16 (x : Nat) (b : BitVec 4) (rid : Address) (path : List Byte) (val : BitVec 64)
  | kindReserved32 (x : Nat) (b : BitVec 5) (rid : Address) (path : List Byte) (val : BitVec 64)
  | kindReserved64 (x : Nat) (b : BitVec 6) (rid : Address) (path : List Byte) (val : BitVec 64)
  | kindReserved128 (x : Nat) (b : BitVec 7) (rid : Address) (path : List Byte) (val : BitVec 64)
  -- SAMP: the sampler (rules R152 to R155)
  | sample (x : Nat) (d : Bool)
  | edgeOverrun (x : Nat) (d : Bool)
  | edgeMasked (x : Nat) (d : Bool)
  | noedgeLow (x : Nat)
  | noedgeFall (x : Nat)
  | noedgeHigh (x : Nat)
  -- RVEC: the reassembler (rules R172 to R176)
  | reasmAcceptSelf (x : Nat)
  | reasmAcceptCoord (x : Nat)
  | reasmReject (x : Nat)
  | reasmAbandon (x : Nat)
  | reasmNop (x : Nat)
  -- TXPH: the transmitter (rules R192 to R198, R112)
  | txBegin (x : Nat) (f : Frame)
  | txData (x : Nat)
  | txRise (x : Nat)
  | txFall (x : Nat)
  | txNext (x : Nat)
  | txFramehold (x : Nat)
  | txEnd (x : Nat)
  | txWaitSetup (x : Nat)
  | txWaitHigh (x : Nat)
  | txWaitLow (x : Nat)
  | txWaitFramehold (x : Nat)
  | txUnreachable (x : Nat)
  -- HCMD: the host commands (rules R222 to R225)
  | configure (x : Nat) (id : Address)
  | send (x : Nat) (path : List Byte) (kind : Byte) (v : BitVec 64)
  | sendRequest (x : Nat) (target : Address)
  | poll (x : Nat)
  -- FUNC: the codec functions and PUSH (rules R134 to R136, R228)
  | encodeData (x : Nat) (kind : Byte) (path : List Byte) (v : BitVec 64)
  | encodeRequest (x : Nat) (target : Address)
  | decodeFrame (x : Nat) (f : Frame)
  | push (x : Nat) (f : Frame)
  -- ENV: time, the link, reset (rules R262, R270, R290)
  | tick
  | linkResolve
  | reset (x : Nat)
deriving DecidableEq, Repr

/-- The names of the rows of spec/opcode_table.json, in the table's order (rules R110 to R113, R124). -/
inductive Row where
  | kindUnknown | kindRequestOnly | kindFloat | kindDouble | kindInt64 | kindUint64
  | kindReserved6 | kindReserved8 | kindReserved16 | kindReserved32 | kindReserved64 | kindReserved128
  | sample | edgeOverrun | edgeMasked | noedgeLow | noedgeFall | noedgeHigh
  | reasmAcceptSelf | reasmAcceptCoord | reasmReject | reasmAbandon | reasmNop
  | txBegin | txData | txRise | txFall | txNext | txFramehold | txEnd
  | txWaitSetup | txWaitHigh | txWaitLow | txWaitFramehold | txUnreachable
  | configure | send | sendRequest | poll
  | encodeData | encodeRequest | decodeFrame | push
  | tick | linkResolve | reset
deriving DecidableEq, Repr

/-- The row an instruction is an instance of. -/
def Instr.row : Instr → Row
  | .kindUnknown .. => .kindUnknown
  | .kindRequestOnly .. => .kindRequestOnly
  | .kindFloat .. => .kindFloat
  | .kindDouble .. => .kindDouble
  | .kindInt64 .. => .kindInt64
  | .kindUint64 .. => .kindUint64
  | .kindReserved6 .. => .kindReserved6
  | .kindReserved8 .. => .kindReserved8
  | .kindReserved16 .. => .kindReserved16
  | .kindReserved32 .. => .kindReserved32
  | .kindReserved64 .. => .kindReserved64
  | .kindReserved128 .. => .kindReserved128
  | .sample .. => .sample
  | .edgeOverrun .. => .edgeOverrun
  | .edgeMasked .. => .edgeMasked
  | .noedgeLow .. => .noedgeLow
  | .noedgeFall .. => .noedgeFall
  | .noedgeHigh .. => .noedgeHigh
  | .reasmAcceptSelf .. => .reasmAcceptSelf
  | .reasmAcceptCoord .. => .reasmAcceptCoord
  | .reasmReject .. => .reasmReject
  | .reasmAbandon .. => .reasmAbandon
  | .reasmNop .. => .reasmNop
  | .txBegin .. => .txBegin
  | .txData .. => .txData
  | .txRise .. => .txRise
  | .txFall .. => .txFall
  | .txNext .. => .txNext
  | .txFramehold .. => .txFramehold
  | .txEnd .. => .txEnd
  | .txWaitSetup .. => .txWaitSetup
  | .txWaitHigh .. => .txWaitHigh
  | .txWaitLow .. => .txWaitLow
  | .txWaitFramehold .. => .txWaitFramehold
  | .txUnreachable .. => .txUnreachable
  | .configure .. => .configure
  | .send .. => .send
  | .sendRequest .. => .sendRequest
  | .poll .. => .poll
  | .encodeData .. => .encodeData
  | .encodeRequest .. => .encodeRequest
  | .decodeFrame .. => .decodeFrame
  | .push .. => .push
  | .tick => .tick
  | .linkResolve => .linkResolve
  | .reset .. => .reset

/-- The device at which an instruction happens; 0 for `TICK` and `LINK_RESOLVE`, which are the link's (rule R13). -/
def Instr.dev : Instr → Nat
  | .kindUnknown x .. | .kindRequestOnly x .. | .kindFloat x .. | .kindDouble x .. | .kindInt64 x ..
  | .kindUint64 x .. | .kindReserved6 x .. | .kindReserved8 x .. | .kindReserved16 x ..
  | .kindReserved32 x .. | .kindReserved64 x .. | .kindReserved128 x .. => x
  | .sample x _ | .edgeOverrun x _ | .edgeMasked x _ | .noedgeLow x | .noedgeFall x | .noedgeHigh x => x
  | .reasmAcceptSelf x | .reasmAcceptCoord x | .reasmReject x | .reasmAbandon x | .reasmNop x => x
  | .txBegin x _ | .txData x | .txRise x | .txFall x | .txNext x | .txFramehold x | .txEnd x
  | .txWaitSetup x | .txWaitHigh x | .txWaitLow x | .txWaitFramehold x | .txUnreachable x => x
  | .configure x _ | .send x .. | .sendRequest x _ | .poll x => x
  | .encodeData x .. | .encodeRequest x _ | .decodeFrame x _ | .push x _ => x
  | .tick | .linkResolve => 0
  | .reset x => x

end Sys2Proof
end

