-- ==== Sys2Proof/Machine/Operands.lean ====
section
/-! DEFINITION. Operands.lean: the operand forms: byte order (rules R17, R72), bits of a byte (rules R16, R70), the
`kind` codes (rules R102, R116), the fields of a frame (rules R90, R101, R104 to R106) and the codec's functions (rules
R133 to R137). Everything here is a pure function of its arguments. -/

namespace Sys2Proof.Machine

/-- `zeros(n)` (rule R17). -/
def zeros (n : Nat) : List Byte := List.replicate n 0

/-- `le_bytes_n(v)`: the `n` bytes of `v`, least significant byte first (rules R17, R72). -/
def leBytes : Nat → Nat → List Byte
  | 0, _ => []
  | n + 1, v => BitVec.ofNat 8 v :: leBytes n (v / 256)

/-- The number whose bytes, least significant first, are the given ones (rules R17, R104). -/
def leNat : List Byte → Nat
  | [] => 0
  | b :: bs => b.toNat + 256 * leNat bs

/-- `le16(b0, b1) = b0 + 256*b1` (rule R17). -/
def le16 (b0 b1 : Byte) : Address := BitVec.ofNat 16 (b0.toNat + 256 * b1.toNat)

/-- A byte with bit `k` replaced by `d`, the other seven bits unchanged (rules R18, R77, R152). -/
def setBit (b : Byte) (k : Nat) (d : Bool) : Byte :=
  if d then b ||| BitVec.twoPow 8 k else b &&& ~~~(BitVec.twoPow 8 k)

/-- The byte address of a bit address: `offset/8` (rules R73, R107). -/
def byteOf (o : Nat) : Nat := o / 8

/-- The bit number of a bit address: `offset%8` (rules R73, R107). -/
def bitOf (o : Nat) : Nat := o % 8

/-- `BitRead(buf, o)` of a sequence of bytes (rule R18); a byte beyond the sequence reads 0. -/
def frameBit (f : Frame) (o : Nat) : Bool := (f.getD (byteOf o) 0).getLsbD (bitOf o)

/-- The bits of a decode vector, most significant first, as the number the opcode table writes (rule R124). -/
def vectorByte (bits : List Bool) : Byte := BitVec.ofNat 8 (bits.foldl (fun n b => 2 * n + b.toNat) 0)

/-- The code of a kind (rules R102, R116). -/
def kindCode : Kind → Byte
  | .unknown => 0
  | .requestOnly => 1
  | .float => 2
  | .double => 3
  | .int64 => 4
  | .uint64 => 5
  | .reserved b => b

/-- The kind of a code (rule R136). -/
def kindOf (k : Byte) : Kind :=
  if k = 0 then .unknown
  else if k = 1 then .requestOnly
  else if k = 2 then .float
  else if k = 3 then .double
  else if k = 4 then .int64
  else if k = 5 then .uint64
  else .reserved k

/-- The four value kinds: `FLOAT`, `DOUBLE`, `INT64`, `UINT64` (rules R103, R113). -/
def isValueKind (k : Byte) : Bool := k == 2 || k == 3 || k == 4 || k == 5

/-- The byte string holds no 0 byte: the domain of `PATHFIELD` (rules R106, R133). -/
def noZeroByte (p : List Byte) : Bool := p.all (fun b => b != 0)

/-- `PATHFIELD(p)`: `PATH_LEN` bytes, truncated to `PATH_LEN - 1` and ended by a 0 byte (rules R106, R133). -/
def pathField (c : Params) (p : List Byte) : List Byte :=
  if p.length ≤ c.path_len - 1 then p ++ zeros (c.path_len - p.length)
  else p.take (c.path_len - 1) ++ zeros 1

/-- `VALFIELD(kind, v)`: 8 bytes (rules R104, R137). -/
def valField (k : Byte) (v : BitVec 64) : List Byte :=
  if k = 2 then leBytes 4 v.toNat ++ zeros 4
  else if k = 3 ∨ k = 4 ∨ k = 5 then leBytes 8 v.toNat
  else zeros 8

/-- A frame put together from its four fields in the order of the layout (rule R90). -/
def assembleFrame (rid : Address) (k : Byte) (path val : List Byte) : Frame :=
  leBytes 2 rid.toNat ++ [k] ++ path ++ val

/-- `ENCODE_DATA(kind, path, v)`; the `recipient_id` of a data frame is 0 (rules R105, R134). -/
def encodeDataFrame (c : Params) (k : Byte) (p : List Byte) (v : BitVec 64) : Frame :=
  assembleFrame 0 k (pathField c p) (valField k v)

/-- `ENCODE_REQUEST(target)` (rule R135). -/
def encodeRequestFrame (c : Params) (target : Address) : Frame :=
  assembleFrame target 1 (zeros c.path_len) (zeros 8)

/-- `recipient_id` of a frame: bytes 0 and 1 (rules R90, R101, R136). -/
def frameRecipient (f : Frame) : Address := le16 (f.getD 0 0) (f.getD 1 0)

/-- The `kind` byte of a frame: byte 2 (rules R90, R101). -/
def frameKindByte (f : Frame) : Byte := f.getD 2 0

/-- The `path` field of a frame: bytes 3 to `2 + PATH_LEN` (rules R90, R136). -/
def framePathField (c : Params) (f : Frame) : List Byte := (f.drop 3).take c.path_len

/-- The `value` field of a frame: bytes `3 + PATH_LEN` to `10 + PATH_LEN` (rules R90, R136). -/
def frameValueField (c : Params) (f : Frame) : List Byte := (f.drop (3 + c.path_len)).take 8

/-- The path a path field denotes: the bytes before the first 0 byte, all of them if there is none (rule R136). -/
def pathText (P : List Byte) : List Byte := P.takeWhile (fun b => b != 0)

/-- The 32-bit pattern in the first four bytes of a value field (rules R104, R136). -/
def value32 (V : List Byte) : Value := .bits32 (BitVec.ofNat 32 (leNat (V.take 4)))

/-- The 64-bit pattern in the eight bytes of a value field (rules R104, R136). -/
def value64 (V : List Byte) : Value := .bits64 (BitVec.ofNat 64 (leNat (V.take 8)))

/-- The value `DECODE` gives for a kind (rule R136): none for `UNKNOWN`, `REQUEST_ONLY` and a reserved kind. -/
def valueOf (k : Kind) (V : List Byte) : Option Value :=
  match k with
  | .float => some (value32 V)
  | .double => some (value64 V)
  | .int64 => some (value64 V)
  | .uint64 => some (value64 V)
  | .unknown => none
  | .requestOnly => none
  | .reserved _ => none

/-- `DECODE(b)`: the typed view of a frame, total on `NB` bytes (rule R136). -/
def decodeView (c : Params) (f : Frame) : View :=
  { recipient_id := frameRecipient f
    kind := kindOf (frameKindByte f)
    path := pathText (framePathField c f)
    value := valueOf (kindOf (frameKindByte f)) (frameValueField c f) }

/-- `f` is a frame that `ENCODE_DATA` or `ENCODE_REQUEST` builds, the only frames `TX_BEGIN` is given (rule R192): the encoder
of its kind gives it back from its own fields. -/
def builtByCodec (c : Params) (f : Frame) : Bool :=
  f == encodeRequestFrame c (frameRecipient f) ||
    (isValueKind (frameKindByte f) &&
      f == encodeDataFrame c (frameKindByte f) (pathText (framePathField c f))
        (BitVec.ofNat 64 (leNat (frameValueField c f))))

/-- The number an `INT64` pattern denotes: two's complement (rules R104, R136). -/
def int64Number (v : BitVec 64) : Int := v.toInt

end Sys2Proof.Machine
end

