-- ==== Sys2Proof/WellFormed.lean ====
section
/-! DEFINITION. WellFormed.lean: which instruction terms have an encoding on a link with the parameters `c`. The checks
are on operands only: a frame operand is `NB` bytes (rules R136, R192, R228), a `path` field is `PATH_LEN` bytes (rule
R90), a `FLOAT` pattern is 32 bits (rule R113), and a path operand fits the length word of the model's own operand layout
(log entry 2). A path with a 0 byte and a `kind` that is not a value kind are well formed: `SEND` refuses them (rule R257). -/

namespace Sys2Proof

/-- Rule R113: the value operand is a 32-bit pattern for `FLOAT` (code 2) and a 64-bit pattern otherwise. -/
def valueFits (kind : Byte) (v : BitVec 64) : Bool := kind != 2 || decide (v.toNat < 4294967296)

/-- The length word of a path operand has 32 bits (log entry 2). -/
def pathFits (path : List Byte) : Bool := decide (path.length < 4294967296)

/-- The operands of an instruction have the sizes its encoding can hold. -/
def Instr.wellFormed (c : Params) : Instr → Bool
  | .kindUnknown _ _ p _ | .kindRequestOnly _ _ p _ | .kindFloat _ _ p _ | .kindDouble _ _ p _
  | .kindInt64 _ _ p _ | .kindUint64 _ _ p _ => p.length == c.path_len
  | .kindReserved6 _ _ _ p _ | .kindReserved8 _ _ _ p _ | .kindReserved16 _ _ _ p _
  | .kindReserved32 _ _ _ p _ | .kindReserved64 _ _ _ p _ | .kindReserved128 _ _ _ p _ => p.length == c.path_len
  | .sample .. | .edgeOverrun .. | .edgeMasked .. | .noedgeLow _ | .noedgeFall _ | .noedgeHigh _ => true
  | .reasmAcceptSelf _ | .reasmAcceptCoord _ | .reasmReject _ | .reasmAbandon _ | .reasmNop _ => true
  | .txBegin _ f => f.length == c.NB
  | .txData _ | .txRise _ | .txFall _ | .txNext _ | .txFramehold _ | .txEnd _ => true
  | .txWaitSetup _ | .txWaitHigh _ | .txWaitLow _ | .txWaitFramehold _ | .txUnreachable _ => true
  | .configure .. => true
  | .send _ p k v => pathFits p && valueFits k v
  | .sendRequest .. | .poll _ => true
  | .encodeData _ k p v => pathFits p && valueFits k v
  | .encodeRequest .. => true
  | .decodeFrame _ f => f.length == c.NB
  | .push _ f => f.length == c.NB
  | .tick | .linkResolve | .reset _ => true

end Sys2Proof
end

