-- ==== Sys2Proof/Decode.lean ====
section
/-! DEFINITION. Decode.lean: the opcode table, the decoder and the encoder.
The bits of a row are its mask and pattern in spec/opcode_table.json (rules R102, R110 to R113, R116). The five formats
with bits overlap as numbers and the table gives operands no bits, so an operation word of the model is
  byte 0: the row's bits, as the table numbers them; byte 1: the format; then the operand bytes
(log entry 2, DESIGN CHOICE). Format byte 0 is a word of table bits alone, read in the narrowest of the formats `HCMD`
(2 bits), `TXPH` (5 bits) and `FRAME.kind` (8 bits) that has room for it (log entry 3, DESIGN CHOICE).
The number of the device is no part of the word: the agent of a device acts at that device (rule R19). -/

namespace Sys2Proof

open Sys2Proof.Machine

/-- Why a sequence of bytes is no operation word. -/
inductive DecodeError where
  /-- The word ends before its last operand byte. -/
  | truncated
  /-- The format byte names no format. -/
  | reservedFormat (tag : Byte)
  /-- No row of the format matches the vector byte: it has bits above the format's width. -/
  | noRow (code : Byte)
  /-- A `FLOAT` pattern of more than 32 bits (rule R113). -/
  | floatTooWide
deriving DecidableEq, Repr

/-- The rows of a format, in the table's order. -/
def Format.rows : Format → List Row
  | .kind => [.kindUnknown, .kindRequestOnly, .kindFloat, .kindDouble, .kindInt64, .kindUint64,
      .kindReserved6, .kindReserved8, .kindReserved16, .kindReserved32, .kindReserved64, .kindReserved128]
  | .samp => [.sample, .edgeOverrun, .edgeMasked, .noedgeLow, .noedgeFall, .noedgeHigh]
  | .rvec => [.reasmAcceptSelf, .reasmAcceptCoord, .reasmReject, .reasmAbandon, .reasmNop]
  | .txph => [.txBegin, .txData, .txRise, .txFall, .txNext, .txFramehold, .txEnd,
      .txWaitSetup, .txWaitHigh, .txWaitLow, .txWaitFramehold, .txUnreachable]
  | .hcmd => [.configure, .send, .sendRequest, .poll]
  | .func => [.encodeData, .encodeRequest, .decodeFrame, .push]
  | .env => [.tick, .linkResolve, .reset]

/-- The number of bits of a format's vector (rules R110 to R113); a byte for the rows that have no pattern. -/
def Format.width : Format → Nat
  | .kind => 8
  | .samp => 5
  | .rvec => 4
  | .txph => 5
  | .hcmd => 2
  | .func => 8
  | .env => 8

/-- The format byte of an operation word (log entry 2). -/
def Format.tag : Format → Byte
  | .kind => 1
  | .samp => 2
  | .rvec => 3
  | .txph => 4
  | .hcmd => 5
  | .func => 6
  | .env => 7

/-- The format of a row. -/
def Row.format : Row → Format
  | .kindUnknown | .kindRequestOnly | .kindFloat | .kindDouble | .kindInt64 | .kindUint64
  | .kindReserved6 | .kindReserved8 | .kindReserved16 | .kindReserved32 | .kindReserved64 | .kindReserved128 => .kind
  | .sample | .edgeOverrun | .edgeMasked | .noedgeLow | .noedgeFall | .noedgeHigh => .samp
  | .reasmAcceptSelf | .reasmAcceptCoord | .reasmReject | .reasmAbandon | .reasmNop => .rvec
  | .txBegin | .txData | .txRise | .txFall | .txNext | .txFramehold | .txEnd
  | .txWaitSetup | .txWaitHigh | .txWaitLow | .txWaitFramehold | .txUnreachable => .txph
  | .configure | .send | .sendRequest | .poll => .hcmd
  | .encodeData | .encodeRequest | .decodeFrame | .push => .func
  | .tick | .linkResolve | .reset => .env

/-- `mask` of the opcode table. The rows of `FUNC` and `ENV` have none there; their number in the format's list stands
for a pattern (log entry 2). -/
def Row.mask : Row → Byte
  | .kindUnknown | .kindRequestOnly | .kindFloat | .kindDouble | .kindInt64 | .kindUint64 => 0xFF
  | .kindReserved6 => 0xFE
  | .kindReserved8 => 0xF8
  | .kindReserved16 => 0xF0
  | .kindReserved32 => 0xE0
  | .kindReserved64 => 0xC0
  | .kindReserved128 => 0x80
  | .sample => 0x1B
  | .edgeOverrun => 0x1B
  | .edgeMasked => 0x1A
  | .noedgeLow | .noedgeFall | .noedgeHigh => 0x18
  | .reasmAcceptSelf => 0xC
  | .reasmAcceptCoord => 0xE
  | .reasmReject => 0xE
  | .reasmAbandon => 0x9
  | .reasmNop => 0x9
  | .txBegin => 0x1C
  | .txData => 0x1C
  | .txRise => 0x1E
  | .txFall => 0x1E
  | .txNext => 0x1F
  | .txFramehold => 0x1F
  | .txEnd => 0x1E
  | .txWaitSetup | .txWaitHigh | .txWaitLow | .txWaitFramehold => 0x1E
  | .txUnreachable => 0x18
  | .configure | .send | .sendRequest | .poll => 0x3
  | .encodeData | .encodeRequest | .decodeFrame | .push => 0xFF
  | .tick | .linkResolve | .reset => 0xFF

/-- `match` of the opcode table. -/
def Row.pattern : Row → Byte
  | .kindUnknown => 0x00
  | .kindRequestOnly => 0x01
  | .kindFloat => 0x02
  | .kindDouble => 0x03
  | .kindInt64 => 0x04
  | .kindUint64 => 0x05
  | .kindReserved6 => 0x06
  | .kindReserved8 => 0x08
  | .kindReserved16 => 0x10
  | .kindReserved32 => 0x20
  | .kindReserved64 => 0x40
  | .kindReserved128 => 0x80
  | .sample => 0x0A
  | .edgeOverrun => 0x0B
  | .edgeMasked => 0x08
  | .noedgeLow => 0x00
  | .noedgeFall => 0x10
  | .noedgeHigh => 0x18
  | .reasmAcceptSelf => 0xC
  | .reasmAcceptCoord => 0xA
  | .reasmReject => 0x8
  | .reasmAbandon => 0x1
  | .reasmNop => 0x0
  | .txBegin => 0x00
  | .txData => 0x04
  | .txRise => 0x0A
  | .txFall => 0x0E
  | .txNext => 0x12
  | .txFramehold => 0x13
  | .txEnd => 0x16
  | .txWaitSetup => 0x08
  | .txWaitHigh => 0x0C
  | .txWaitLow => 0x10
  | .txWaitFramehold => 0x14
  | .txUnreachable => 0x18
  | .configure => 0x0
  | .send => 0x1
  | .sendRequest => 0x2
  | .poll => 0x3
  | .encodeData => 0
  | .encodeRequest => 1
  | .decodeFrame => 2
  | .push => 3
  | .tick => 0
  | .linkResolve => 1
  | .reset => 2

/-- A row matches a vector: the vector has no bit above the format's width and agrees with `match` under `mask`. -/
def Row.matches (r : Row) (w : Byte) : Bool :=
  decide (w.toNat < 2 ^ r.format.width) && (w &&& r.mask == r.pattern)

/-- The row of a format that a vector selects. -/
def findRow (fmt : Format) (w : Byte) : Option Row := fmt.rows.find? (fun r => r.matches w)

/-- The format of a word of table bits alone: the narrowest of `HCMD`, `TXPH` and `FRAME.kind` that has room for it (log
entry 3). -/
def untaggedFormat (w : Byte) : Format :=
  if w.toNat < 4 then .hcmd else if w.toNat < 32 then .txph else .kind

/-- The format a format byte names, for a word whose byte 0 is `w`. -/
def formatOf (w tag : Byte) : Except DecodeError Format :=
  if tag = 0 then .ok (untaggedFormat w)
  else if tag = 1 then .ok .kind
  else if tag = 2 then .ok .samp
  else if tag = 3 then .ok .rvec
  else if tag = 4 then .ok .txph
  else if tag = 5 then .ok .hcmd
  else if tag = 6 then .ok .func
  else if tag = 7 then .ok .env
  else .error (.reservedFormat tag)

/-- Operand bytes of a `FRAME.kind` row: the frame's other fields, `recipient_id`, `path` field, `value` field. -/
def readKindOperands (c : Params) (args : List Byte) (k : Address → List Byte → BitVec 64 → Instr) :
    Except DecodeError Instr :=
  if 2 + c.path_len + 8 ≤ args.length then
    .ok (k (BitVec.ofNat 16 (leNat (args.take 2))) ((args.drop 2).take c.path_len)
      (BitVec.ofNat 64 (leNat ((args.drop (2 + c.path_len)).take 8))))
  else .error .truncated

/-- A 16-bit operand, least significant byte first. -/
def readAddress (args : List Byte) (k : Address → Instr) : Except DecodeError Instr :=
  if 2 ≤ args.length then .ok (k (BitVec.ofNat 16 (leNat (args.take 2)))) else .error .truncated

/-- A frame operand: `NB` bytes. -/
def readFrame (c : Params) (args : List Byte) (k : Frame → Instr) : Except DecodeError Instr :=
  if c.NB ≤ args.length then .ok (k (args.take c.NB)) else .error .truncated

/-- Data operands: the `kind` byte, the value in 8 bytes, the length of the path in 4 bytes, the path. -/
def readData (args : List Byte) (k : Byte → List Byte → BitVec 64 → Instr) : Except DecodeError Instr :=
  match args with
  | [] => .error .truncated
  | kind :: rest =>
    let v := BitVec.ofNat 64 (leNat (rest.take 8))
    let n := leNat ((rest.drop 8).take 4)
    if rest.length < 12 then .error .truncated
    else if rest.length < 12 + n then .error .truncated
    else if valueFits kind v then .ok (k kind ((rest.drop 12).take n) v)
    else .error .floatTooWide

/-- The instruction of a row, from the vector byte and the operand bytes. -/
def readOperands (c : Params) (x : Nat) (w : Byte) (args : List Byte) : Row → Except DecodeError Instr
  | .kindUnknown => readKindOperands c args (.kindUnknown x)
  | .kindRequestOnly => readKindOperands c args (.kindRequestOnly x)
  | .kindFloat => readKindOperands c args (.kindFloat x)
  | .kindDouble => readKindOperands c args (.kindDouble x)
  | .kindInt64 => readKindOperands c args (.kindInt64 x)
  | .kindUint64 => readKindOperands c args (.kindUint64 x)
  | .kindReserved6 => readKindOperands c args (.kindReserved6 x (w.setWidth 1))
  | .kindReserved8 => readKindOperands c args (.kindReserved8 x (w.setWidth 3))
  | .kindReserved16 => readKindOperands c args (.kindReserved16 x (w.setWidth 4))
  | .kindReserved32 => readKindOperands c args (.kindReserved32 x (w.setWidth 5))
  | .kindReserved64 => readKindOperands c args (.kindReserved64 x (w.setWidth 6))
  | .kindReserved128 => readKindOperands c args (.kindReserved128 x (w.setWidth 7))
  | .sample => .ok (.sample x (w.getLsbD 2))
  | .edgeOverrun => .ok (.edgeOverrun x (w.getLsbD 2))
  | .edgeMasked => .ok (.edgeMasked x (w.getLsbD 2))
  | .noedgeLow => .ok (.noedgeLow x)
  | .noedgeFall => .ok (.noedgeFall x)
  | .noedgeHigh => .ok (.noedgeHigh x)
  | .reasmAcceptSelf => .ok (.reasmAcceptSelf x)
  | .reasmAcceptCoord => .ok (.reasmAcceptCoord x)
  | .reasmReject => .ok (.reasmReject x)
  | .reasmAbandon => .ok (.reasmAbandon x)
  | .reasmNop => .ok (.reasmNop x)
  | .txBegin => readFrame c args (.txBegin x)
  | .txData => .ok (.txData x)
  | .txRise => .ok (.txRise x)
  | .txFall => .ok (.txFall x)
  | .txNext => .ok (.txNext x)
  | .txFramehold => .ok (.txFramehold x)
  | .txEnd => .ok (.txEnd x)
  | .txWaitSetup => .ok (.txWaitSetup x)
  | .txWaitHigh => .ok (.txWaitHigh x)
  | .txWaitLow => .ok (.txWaitLow x)
  | .txWaitFramehold => .ok (.txWaitFramehold x)
  | .txUnreachable => .ok (.txUnreachable x)
  | .configure => readAddress args (.configure x)
  | .send => readData args (fun k p v => .send x p k v)
  | .sendRequest => readAddress args (.sendRequest x)
  | .poll => .ok (.poll x)
  | .encodeData => readData args (fun k p v => .encodeData x k p v)
  | .encodeRequest => readAddress args (.encodeRequest x)
  | .decodeFrame => readFrame c args (.decodeFrame x)
  | .push => readFrame c args (.push x)
  | .tick => .ok .tick
  | .linkResolve => .ok .linkResolve
  | .reset => .ok (.reset x)

/-- The decoder: the instruction that an operation word, fetched at device `x`, stands for. Total on any bytes; bytes
after the last operand byte are not read. -/
def decode (c : Params) (x : Nat) (bytes : List Byte) : Except DecodeError Instr :=
  match bytes with
  | w :: tag :: args =>
    match formatOf w tag with
    | .error e => .error e
    | .ok fmt =>
      match findRow fmt w with
      | none => .error (.noRow w)
      | some r => readOperands c x w args r
  | _ => .error .truncated

/-- The vector byte of an instruction: the row's `match`, with the bits the instruction's operands put into it; a bit
that does not take part (`x` in the table) is 0. -/
def Instr.vector (i : Instr) : Byte :=
  match i with
  | .kindReserved6 _ b .. => i.row.pattern ||| b.setWidth 8
  | .kindReserved8 _ b .. => i.row.pattern ||| b.setWidth 8
  | .kindReserved16 _ b .. => i.row.pattern ||| b.setWidth 8
  | .kindReserved32 _ b .. => i.row.pattern ||| b.setWidth 8
  | .kindReserved64 _ b .. => i.row.pattern ||| b.setWidth 8
  | .kindReserved128 _ b .. => i.row.pattern ||| b.setWidth 8
  | .sample _ d | .edgeOverrun _ d | .edgeMasked _ d => i.row.pattern ||| (BitVec.ofNat 8 (4 * d.toNat))
  | _ => i.row.pattern

/-- Operand bytes of a `FRAME.kind` row. -/
def kindOperandBytes (rid : Address) (path : List Byte) (val : BitVec 64) : List Byte :=
  leBytes 2 rid.toNat ++ path ++ leBytes 8 val.toNat

/-- Operand bytes of `SEND` and `ENCODE_DATA`. -/
def dataOperandBytes (kind : Byte) (path : List Byte) (v : BitVec 64) : List Byte :=
  kind :: (leBytes 8 v.toNat ++ leBytes 4 path.length ++ path)

/-- The operand bytes of an instruction. -/
def Instr.operandBytes : Instr → List Byte
  | .kindUnknown _ r p v | .kindRequestOnly _ r p v | .kindFloat _ r p v | .kindDouble _ r p v
  | .kindInt64 _ r p v | .kindUint64 _ r p v => kindOperandBytes r p v
  | .kindReserved6 _ _ r p v | .kindReserved8 _ _ r p v | .kindReserved16 _ _ r p v
  | .kindReserved32 _ _ r p v | .kindReserved64 _ _ r p v | .kindReserved128 _ _ r p v => kindOperandBytes r p v
  | .sample .. | .edgeOverrun .. | .edgeMasked .. | .noedgeLow _ | .noedgeFall _ | .noedgeHigh _ => []
  | .reasmAcceptSelf _ | .reasmAcceptCoord _ | .reasmReject _ | .reasmAbandon _ | .reasmNop _ => []
  | .txBegin _ f => f
  | .txData _ | .txRise _ | .txFall _ | .txNext _ | .txFramehold _ | .txEnd _ => []
  | .txWaitSetup _ | .txWaitHigh _ | .txWaitLow _ | .txWaitFramehold _ | .txUnreachable _ => []
  | .configure _ a => leBytes 2 a.toNat
  | .send _ p k v => dataOperandBytes k p v
  | .sendRequest _ a => leBytes 2 a.toNat
  | .poll _ => []
  | .encodeData _ k p v => dataOperandBytes k p v
  | .encodeRequest _ a => leBytes 2 a.toNat
  | .decodeFrame _ f => f
  | .push _ f => f
  | .tick | .linkResolve | .reset _ => []

/-- The encoder: the operation word of an instruction. -/
def encode (i : Instr) : List Byte := i.vector :: i.row.format.tag :: i.operandBytes

/-- The bytes of an instruction whose table bits are `w`: the `nbits` bits in whole bytes, the first at the lowest
address, then zeros up to the longest instruction whose length the parameters fix. -/
def wordBytes (c : Params) (nbits w : Nat) : List Byte := leBytes ((nbits + 7) / 8) w ++ zeros (c.NB + 16)

/-- The instruction the decoder reads from the table bits `w` (numbered as spec/opcode_table.json numbers them), at
device 0 of a link with the reset parameters. -/
def decodeTableWord (nbits w : Nat) : Option Instr :=
  match decode Params.initial 0 (wordBytes Params.initial nbits w) with
  | .ok i => some i
  | .error _ => none

end Sys2Proof
end

