-- ==== Sys2Proof/Machine/State.lean ====
section
/-! DEFINITION. State.lean: everything the spec gives the machine, as plain data (rules R30, R58), the outcomes a step
can have (rule R15), and the state after reset (rules R290 to R293). Field names are the spec's. -/

namespace Sys2Proof.Machine

/-- A buffer of `NB` bytes, as the list of its (address, byte) cells in canonical form: addresses strictly rising, no
cell holding 0, which is what an unlisted byte reads as (the reset content, rules R30, R290; log entry 19). -/
abbrev Memory := List Host.Cell

/-- What an unlisted byte of a buffer reads as: 0, the content after `RESET` (rules R30, R290). -/
abbrev Memory.unlisted : Byte := 0

/-- The canonical form of a buffer. -/
def Memory.wf (m : Memory) : Bool :=
  decide ((m.map Prod.fst).Pairwise (· < ·)) && m.all (fun cell => cell.2 != Memory.unlisted)

/-- Rule R47. -/
inductive Mode where
  | receiving
  | transmitting
deriving DecidableEq, Repr

/-- Rule R48: the direction of both lines at once. -/
inductive PinDir where
  | input
  | output
deriving DecidableEq, Repr

/-- The 3-bit phase field (rules R30, R38). Codes 6 and 7 exist in the field and are never reached (rule R112). -/
inductive TxPhase where
  | off
  | load
  | setup
  | high
  | low
  | framehold
  | code6
  | code7
deriving DecidableEq, Repr

/-- The drop causes (rule R250). They are labels of outcomes; no register holds them. -/
inductive DropCause where
  | filterReject
  | overrunBit
  | abandonTimeout
  | queueFull
  | txAbandon
deriving DecidableEq, Repr

/-- What a model records of an operation's outcome beside the next state (rules R15, R250) and what an operation
returns to its caller (rules R134 to R136, R198, R225). Log entry 14. -/
inductive Report where
  /-- `raise Drop(cause)` at device `x` (rule R18). -/
  | drop (x : Nat) (cause : DropCause)
  /-- `POLL` at device `x` returned none, or a frame (rule R225). -/
  | polled (x : Nat) (f : Option Frame)
  /-- The blocking `SEND` or `SEND_REQUEST` of device `x` returned (rule R198). -/
  | sendReturned (x : Nat)
  /-- `ENCODE_DATA` or `ENCODE_REQUEST` returned these bytes (rules R134, R135). -/
  | encoded (x : Nat) (f : Frame)
  /-- `DECODE`, or the reading of a frame by its kind, returned this view (rule R136). -/
  | decoded (x : Nat) (v : View)
deriving DecidableEq, Repr

/-- The three line faults (rule R276), for one listening device. -/
inductive LineFault where
  /-- (a) an edge no transmitter raised, with an arbitrary data bit. -/
  | spurious (d : Bool)
  /-- (b) a real edge is not delivered. -/
  | lose
  /-- (c) a real edge is delivered with the data bit inverted. -/
  | flip
deriving DecidableEq, Repr

/-- One entry of the schedule: which agent moves, with the inputs it takes from outside (rules R23, R30; log entry 4). -/
inductive Turn where
  /-- The agent of device `x` that owns the format acts. For `SAMP`, `RVEC` and `TXPH` the vector is formed from the
  state when the turn is fetched and `code` is not read; for the other formats `code` is byte 0 of the operation word. -/
  | op (fmt : Format) (x : Nat) (code : Byte) (args : List Byte)
  /-- The environment disturbs the line at device `x` (rule R276). -/
  | lineFault (x : Nat) (e : LineFault)
deriving DecidableEq, Repr

/-- The state of one device (rule R30), with the device's own parameters, which no operation writes (rules R11, R50). -/
structure Device where
  /-- `raw[0..NB-1]` (rule R31). -/
  raw : Memory
  /-- `bit_offset`, `0..N` (rule R32). -/
  bit_offset : Nat
  /-- `own_id`, 16 bits (rule R33). -/
  own_id : Address
  /-- `configured` (rule R49). -/
  configured : Bool
  /-- `rx_enable` (rule R46). -/
  rx_enable : Bool
  /-- `mode` (rule R47). -/
  mode : Mode
  /-- `pin_dir` (rule R48). -/
  pin_dir : PinDir
  /-- `strobe_out` (rules R30, R194, R195). -/
  strobe_out : Bool
  /-- `data_out` (rules R30, R193). -/
  data_out : Bool
  /-- `tx_buf[0..NB-1]` (rule R34). -/
  tx_buf : Memory
  /-- `tx_index`, `0..N` (rule R38). -/
  tx_index : Nat
  /-- `tx_phase`, 3 bits (rule R38). -/
  tx_phase : TxPhase
  /-- `tx_wait`, in ticks (rule R38). -/
  tx_wait : Nat
  /-- `queue`, the LinkQueue, oldest frame first (rule R51). -/
  queue : List Frame
  /-- `q_overflow`, sticky (rule R43). -/
  q_overflow : Bool
  /-- `idle_ticks`, saturating at `T_ABANDON` (rule R55). -/
  idle_ticks : Nat
  /-- `edge_pending`: none, or the data level captured at the rise (rule R56). -/
  edge_pending : Option Bool
  /-- `reasm_wait`, `0..T_REASM` (rule R57). -/
  reasm_wait : Nat
  /-- `T_ABANDON`, `T_REASM` and `QUEUE_DEPTH` of this device (rules R11, R308; log entry 1). -/
  params : DeviceParams
deriving DecidableEq, Repr

/-- The state of one link: its devices, its two lines and its tick counter (rules R30, R58, R274), and the model's own
fields `cfg`, `strobe_prev`, `free_count`, `reports` and `sched`. -/
structure State where
  /-- The link-wide parameters; no operation writes them (rules R11, R50; log entry 1). -/
  cfg : Params
  /-- The `NDEV` devices, numbered from 0 (rule R274). -/
  devs : List Device
  /-- `line.strobe` (rule R58). -/
  line_strobe : Bool
  /-- `line.data` (rule R58). -/
  line_data : Bool
  /-- `now`, which only `TICK` changes and no rule reads (rule R58). -/
  now : Nat
  /-- The strobe level before the last `LINK_RESOLVE`: bit `p` of the vector of rule R110 (log entry 9). -/
  strobe_prev : Bool
  /-- How many free values have been used (log entry 10). -/
  free_count : Nat
  /-- The outcomes recorded so far, newest first (log entry 14). -/
  reports : List Report
  /-- The turns still to come (log entry 4). -/
  sched : List Turn
deriving DecidableEq, Repr

/-- Why the machine stops with a fault. The block itself has none (rule R15). -/
inductive Fault where
  /-- `BitRead` of a buffer at a byte address `NB` or above, which does not exist (rule R18). Raised by `TX_DATA` when
  `tx_index` is `N` or more, which no run reaches (rule R59). Safe. -/
  | bufferAddress
deriving DecidableEq, Repr

/-- Why a step is refused. A refused request changes no state (rule R257). -/
inductive Refusal where
  /-- Raised by `exec` for an instruction that has no meaning yet; no instruction is left. Safe. -/
  | notModelled (mnemonic : String)
  /-- The operation's guard is false in this state: no run of the spec performs it here (rule R23; log entry 15).
  Raised by the internal operations when `exec` is asked for one that is not enabled. Safe. -/
  | notEnabled
  /-- The link has no device of that number (rule R274; log entry 16). Raised by every operation of a device. Safe. -/
  | noSuchDevice
  /-- `SEND`, `SEND_REQUEST`, `POLL` or `TX_BEGIN` before `CONFIGURE` (rules R221, R257). Safe. -/
  | notConfigured
  /-- `CONFIGURE`, `SEND`, `SEND_REQUEST` or `TX_BEGIN` while the device transmits (rules R221, R257). Safe. -/
  | busyTransmitting
  /-- `SEND` or `ENCODE_DATA` with a path that holds a 0 byte (rules R133, R257). Safe. -/
  | pathHasZero
  /-- `SEND` or `ENCODE_DATA` with a `kind` that is not a value kind (rules R134, R257). Safe. -/
  | notValueKind
  /-- A frame or path-field operand that does not have the length the layout fixes (rule R90; log entry 24), or a frame for
  `TX_BEGIN` that no encoder builds (rule R192; log entry 13). Safe. -/
  | badOperand
  /-- `LINK_CONTENTION`: two or more devices would drive the lines (rules R257, R273). Raised by `TX_BEGIN` and
  `LINK_RESOLVE`. Safe. -/
  | linkContention
  /-- A line fault while `LINE_FAULTS` is none, or one that does not apply at the device (rule R276). Safe. -/
  | noSuchFault
  /-- A turn that names `TX_BEGIN` or `PUSH` by itself: the first is performed only inside `SEND` and `SEND_REQUEST`, the second
  only inside `REASM_ACCEPT` (rules R192, R220, R228; log entries 12 and 13). Raised by `step`. Safe. -/
  | internalOperation
  /-- The bytes of the scheduled turn are no operation word. Raised by `step`. Safe. -/
  | undecodable (e : DecodeError)
deriving DecidableEq, Repr

/-- The outcome of a step or of a meaning. -/
abbrev Out := Host.Outcome State Fault Refusal

/-- A device with the parameters `p` after `RESET`: the last column of rule R30. -/
def Device.initial (p : DeviceParams) : Device :=
  { raw := [], bit_offset := 0, own_id := 0, configured := false, rx_enable := false, mode := .receiving,
    pin_dir := .input, strobe_out := false, data_out := false, tx_buf := [], tx_index := 0, tx_phase := .off,
    tx_wait := 0, queue := [], q_overflow := false, idle_ticks := 0, edge_pending := none, reasm_wait := 0,
    params := p }

/-- A link of one device for each of the parameters `ps`, each just reset, with no driver and `now = 0` (rules R291, R293), with
the link-wide parameters `c` and the turns `sched` still to come. `line_data` is an unspecified level there (rule R293): 0, log entry 11. -/
def State.start (c : Params) (ps : List DeviceParams) (sched : List Turn) : State :=
  { cfg := c, devs := ps.map Device.initial, line_strobe := false, line_data := false, now := 0,
    strobe_prev := false, free_count := 0, reports := [], sched := sched }

/-- The machine right after reset: two devices, the spec's default (rule R11), nothing scheduled. -/
def State.reset : State := State.start Params.initial [DeviceParams.initial, DeviceParams.initial] []

end Sys2Proof.Machine
end

