-- ==== Sys2Proof/Machine/Flags.lean ====
section
/-! DEFINITION. Flags.lean: the derived conditions (rule R42), the address filter (rule R173), and the three decode
vectors formed from the state (rules R110 to R112). The block stores no condition codes (rule R39). -/

namespace Sys2Proof.Machine

/-- Byte `a` of a buffer (rule R18, `x[i]`). -/
def Memory.read : Memory → Nat → Byte
  | [], _ => Memory.unlisted
  | (k, v) :: rest, a => if k = a then v else Memory.read rest a

/-- `BitRead(buf, o)` (rule R18). -/
def Memory.bit (m : Memory) (o : Nat) : Bool := (m.read (byteOf o)).getLsbD (bitOf o)

/-- The derived receive states (rule R42). -/
inductive RxState where
  | idle
  | sampling
  | complete
deriving DecidableEq, Repr

/-- `complete`: `bit_offset == N` (rule R42). -/
def complete (c : Params) (v : Device) : Bool := v.bit_offset == c.N

/-- `partial`: `0 < bit_offset < N` (rule R42). -/
def midFrame (c : Params) (v : Device) : Bool := decide (0 < v.bit_offset) && decide (v.bit_offset < c.N)

/-- `quiet`: `idle_ticks >= T_ABANDON` (rule R42). -/
def quiet (v : Device) : Bool := decide (v.params.t_abandon ≤ v.idle_ticks)

/-- The derived receive state (rule R42). -/
def rxState (c : Params) (v : Device) : RxState :=
  if v.bit_offset = 0 then .idle else if v.bit_offset < c.N then .sampling else .complete

/-- `recipient_id` of the frame in `raw`: `raw[0] + 256*raw[1]` (rules R72, R173). -/
def rawRecipient (v : Device) : Address := le16 (v.raw.read 0) (v.raw.read 1)

/-- First clause of the filter: a request addressed to this device (rule R173). -/
def selfRequest (v : Device) : Bool := rawRecipient v == v.own_id && v.raw.read 2 == 1

/-- Second clause of the filter: the coordinator and a frame that is not a request (rule R173). -/
def coordinatorFrame (v : Device) : Bool := v.own_id == 0 && v.raw.read 2 != 1

/-- `ACCEPTS(raw, own_id)` (rule R173). -/
def accepts (v : Device) : Bool := selfRequest v || coordinatorFrame v

/-- The filter on a frame that is a value, for a device of address `id` (rule R173). -/
def frameAccepted (id : Address) (f : Frame) : Bool :=
  (frameRecipient f == id && frameKindByte f == 1) || (id == 0 && frameKindByte f != 1)

/-- The numeric code of a phase (rules R30, R112). -/
def phaseCode : TxPhase → Nat
  | .off => 0
  | .load => 1
  | .setup => 2
  | .high => 3
  | .low => 4
  | .framehold => 5
  | .code6 => 6
  | .code7 => 7

/-- The phase of a code (rule R112). -/
def phaseOf (n : Nat) : TxPhase :=
  match n with
  | 0 => .off
  | 1 => .load
  | 2 => .setup
  | 3 => .high
  | 4 => .low
  | 5 => .framehold
  | 6 => .code6
  | _ => .code7

/-- Some transmitter operation other than `TX_BEGIN` is enabled (rules R193 to R198, R258 (b)). -/
def txEnabled (c : Params) (v : Device) : Bool :=
  match v.tx_phase with
  | .load => true
  | .setup => v.tx_wait == 0
  | .high => v.tx_wait == 0
  | .low => v.tx_wait == 0 && decide (v.tx_index < c.N)
  | .framehold => v.tx_wait == 0
  | .off => false
  | .code6 => false
  | .code7 => false

/-- The room of the queue: `len(queue) < QUEUE_DEPTH` (rules R174, R228). -/
def queueHasRoom (v : Device) : Bool :=
  match v.params.queue_depth with
  | none => true
  | some n => decide (v.queue.length < n)

/-- The vector `p s d e f` of the sampler (rule R110). A pending edge is a rising edge, `p s = 0 1`, with the captured
level `d`. Without one the levels are those of the line: the level now, and before it the level before the last
`LINK_RESOLVE`, unless that was a rise, which this device no longer has pending (log entry 9). -/
def sampVector (s : State) (v : Device) : Byte :=
  match v.edge_pending with
  | some d => vectorByte [false, true, d, v.rx_enable, complete s.cfg v]
  | none => vectorByte [s.line_strobe || s.strobe_prev, s.line_strobe, s.line_data, v.rx_enable, complete s.cfg v]

/-- The vector `c s g q` of the reassembler (rule R111). -/
def rvecVector (s : State) (v : Device) : Byte :=
  vectorByte [complete s.cfg v, complete s.cfg v && selfRequest v, complete s.cfg v && coordinatorFrame v,
    midFrame s.cfg v && quiet v]

/-- The vector `h2 h1 h0 w l` of the transmitter (rule R112). -/
def txphVector (s : State) (v : Device) : Byte :=
  vectorByte [(phaseCode v.tx_phase).testBit 2, (phaseCode v.tx_phase).testBit 1, (phaseCode v.tx_phase).testBit 0,
    v.tx_wait == 0, v.tx_index == s.cfg.N - 1]

end Sys2Proof.Machine
end

