-- ==== Sys2Proof/Machine/Ops.lean ====
section
/-! DEFINITION. Ops.lean: the named operations over buffers, devices and the link that the meanings share. The block has
no exception to take (rules R15, R250, R263); what stands in its place is the drop, `State.report` of a cause, and the
clear of the receive buffer that goes with most drops. -/

namespace Sys2Proof.Machine

/-- `buf[a] <- b` (rule R18), keeping the canonical form: a 0 byte is not listed. -/
def Memory.write : Memory → Nat → Byte → Memory
  | [], a, b => if b = Memory.unlisted then [] else [(a, b)]
  | (k, v) :: rest, a, b =>
    if a < k then (if b = Memory.unlisted then (k, v) :: rest else (a, b) :: (k, v) :: rest)
    else if a = k then (if b = Memory.unlisted then rest else (a, b) :: rest)
    else (k, v) :: Memory.write rest a b

/-- `BitWrite(buf, o, d)` (rule R18): one bit of one byte. -/
def Memory.setBitAt (m : Memory) (o : Nat) (d : Bool) : Memory :=
  m.write (byteOf o) (setBit (m.read (byteOf o)) (bitOf o) d)

/-- `MemWrite(0, NB, zeros(NB))` (rule R18): every byte 0. -/
def Memory.cleared : Memory := []

/-- `MemRead(0, n)` (rule R18). -/
def Memory.bytes (m : Memory) (n : Nat) : List Byte := (List.range n).map m.read

/-- The buffer whose bytes from address `a` on are the given ones. -/
def Memory.ofBytesFrom (a : Nat) : List Byte → Memory
  | [] => []
  | b :: bs => if b = Memory.unlisted then Memory.ofBytesFrom (a + 1) bs else (a, b) :: Memory.ofBytesFrom (a + 1) bs

/-- `tx_buf <- f` (rule R192): the buffer that holds the bytes of `f` from address 0 on. -/
def Memory.ofBytes (f : List Byte) : Memory := Memory.ofBytesFrom 0 f

/-- The state with device `x` replaced. -/
def State.setDev (s : State) (x : Nat) (v : Device) : State := { s with devs := s.devs.set x v }

/-- The state with one more outcome recorded (rules R15, R18 `raise Drop(cause)`). -/
def State.report (s : State) (r : Report) : State := { s with reports := r :: s.reports }

/-- An operation of device `x`, given the device's state. -/
def onDev (s : State) (x : Nat) (k : Device → Out) : Out :=
  match s.devs[x]? with
  | some v => k v
  | none => .refused .noSuchDevice

/-- What every zeroing operation does to the receive buffer: `raw` zero, `idle_ticks` 0, `bit_offset` 0 (rules R37, R55,
R174 to R176, R192, R222). -/
def Device.clearRx (v : Device) : Device := { v with raw := Memory.cleared, idle_ticks := 0, bit_offset := 0 }

/-- The devices that drive the lines (rule R270). -/
def drivers (s : State) : List Device := s.devs.filter (fun v => v.pin_dir == .output)

/-- Some device other than `x` drives the lines (rules R192, R273). -/
def otherDrives (s : State) (x : Nat) : Bool := (s.devs.eraseIdx x).any (fun v => v.pin_dir == .output)

/-- A listening device gets the edge with the data level at the instant of the rise (rule R270). -/
def deliverEdge (d : Bool) (v : Device) : Device :=
  if v.pin_dir = .input then { v with edge_pending := some d } else v

/-- The lines take their new levels; a rise of the strobe delivers one edge to every listening device (rule R270). -/
def driveLines (s : State) (strobe data : Bool) : State :=
  { s with
    devs := if !s.line_strobe && strobe then s.devs.map (deliverEdge data) else s.devs
    strobe_prev := s.line_strobe
    line_strobe := strobe
    line_data := data }

/-- `LINK_RESOLVE` (rules R270, R271, R273). With no driver the strobe reads 0 and the data line a fresh free value. -/
def resolveLink (s : State) : Out :=
  match drivers s with
  | [] => .next (driveLines { s with free_count := s.free_count + 1 } false (Config.undrivenData s.free_count))
  | [a] => .next (driveLines s a.strobe_out a.data_out)
  | _ => .refused .linkContention

/-- The device as `TX_BEGIN(f)` leaves it (rule R192). -/
def Device.enterTransmit (v : Device) (f : Frame) : Device :=
  { v.clearRx with
    rx_enable := false
    strobe_out := false
    data_out := false
    pin_dir := .output
    mode := .transmitting
    tx_buf := Memory.ofBytes f
    tx_index := 0
    tx_phase := .load
    tx_wait := 0 }

/-- `raise Drop(TX_ABANDON)` if a frame was in progress or complete (rules R192, R255). -/
def reportTxAbandon (s : State) (x : Nat) (v : Device) : State :=
  if v.bit_offset = 0 then s else s.report (.drop x .txAbandon)

/-- `TX_BEGIN(f)` at device `x`, with its guards (rules R192, R257, R273). -/
def beginTransmit (s : State) (x : Nat) (f : Frame) : Out :=
  onDev s x fun v =>
    if v.configured = false then .refused .notConfigured
    else if v.mode = .transmitting ∨ v.tx_phase ≠ .off then .refused .busyTransmitting
    else if otherDrives s x then .refused .linkContention
    else resolveLink ((reportTxAbandon s x v).setDev x (v.enterTransmit f))

/-- `PUSH(f)` into a device's queue (rule R228). -/
def Device.pushFrame (v : Device) (f : Frame) : Device := { v with queue := v.queue ++ [f] }

/-- The end of every `REASM` (rule R171). -/
def Device.reasmDone (v : Device) : Device := { v with reasm_wait := 0 }

/-- `REASM_ACCEPT` once its guard holds: queue the frame if there is room, drop it if there is none, and give the buffer
back in both cases (rules R174, R254). -/
def acceptFrame (s : State) (x : Nat) (v : Device) : State :=
  if queueHasRoom v then
    s.setDev x ((v.pushFrame (v.raw.bytes s.cfg.NB)).clearRx.reasmDone)
  else
    (s.setDev x { v.clearRx.reasmDone with q_overflow := true }).report (.drop x .queueFull)

/-- The device after `RESET` (rule R290); its parameters are no state (rule R30). -/
def Device.afterReset (v : Device) : Device := Device.initial v.params

/-- What one tick does to a device (rule R262). -/
def Device.tick (v : Device) : Device :=
  { v with
    tx_wait := v.tx_wait - 1
    idle_ticks := if v.idle_ticks < v.params.t_abandon then v.idle_ticks + 1 else v.idle_ticks
    reasm_wait := v.reasm_wait + 1 }

/-- `TICK` does not have to wait for this device (rule R258 (b)). -/
def letsTimePass (c : Params) (v : Device) : Bool :=
  v.edge_pending.isNone && !txEnabled c v && decide (v.reasm_wait < v.params.t_reasm)

/-- The guard of `TICK` (rule R258 (b)). -/
def tickEnabled (s : State) : Bool := s.devs.all (letsTimePass s.cfg)

end Sys2Proof.Machine
end

