-- ==== Sys2Proof/Machine/Codec.lean ====
section
/-! DEFINITION. Codec.lean: the codec's functions as operations of the host (rules R134 to R136). They write no state of the
block; the result is recorded as a report (log entry 14). -/

namespace Sys2Proof.Machine

/-- `ENCODE_DATA(kind, path, v)` (rule R134). Outside the domain it is refused, as its caller `SEND` is (rule R223). -/
def execEncodeData (x : Nat) (kind : Byte) (path : List Byte) (v : BitVec 64) (s : State) : Out :=
  onDev s x fun _ =>
    if noZeroByte path = false then .refused .pathHasZero
    else if isValueKind kind = false then .refused .notValueKind
    else .next (s.report (.encoded x (encodeDataFrame s.cfg kind path v)))

/-- `ENCODE_REQUEST(target)` (rule R135). -/
def execEncodeRequest (x : Nat) (target : Address) (s : State) : Out :=
  onDev s x fun _ => .next (s.report (.encoded x (encodeRequestFrame s.cfg target)))

/-- `DECODE(b)` (rule R136), total on `NB` bytes. -/
def execDecodeFrame (x : Nat) (f : Frame) (s : State) : Out :=
  onDev s x fun _ =>
    if f.length = s.cfg.NB then .next (s.report (.decoded x (decodeView s.cfg f))) else .refused .badOperand

end Sys2Proof.Machine
end

