-- ==== Sys2Proof/Machine/Environment.lean ====
section
/-! DEFINITION. Environment.lean: time, the link, reset (rules R262, R270, R290) and the line faults (rule R276). -/

namespace Sys2Proof.Machine

/-- `TICK` (rule R262), under the guard of rule R258 (b). -/
def execTick (s : State) : Out :=
  if tickEnabled s then .next { s with now := s.now + 1, devs := s.devs.map Device.tick }
  else .refused .notEnabled

/-- `LINK_RESOLVE` by itself (rule R270). -/
def execLinkResolve (s : State) : Out := resolveLink s

/-- `RESET` of device `x` (rule R290); the lines are released, so `LINK_RESOLVE` applies. -/
def execReset (x : Nat) (s : State) : Out := onDev s x fun v => resolveLink (s.setDev x v.afterReset)

/-- A line fault at device `x` (rule R276), only with `LINE_FAULTS` enabled and at a listening device. A lost or flipped
edge acts on the edge just delivered, before the device executes it (log entry 18). -/
def applyLineFault (x : Nat) (e : LineFault) (s : State) : Out :=
  onDev s x fun v =>
    if s.cfg.line_faults = true ∧ v.pin_dir = .input then
      match e, v.edge_pending with
      | .spurious d, none => .next (s.setDev x { v with edge_pending := some d })
      | .lose, some _ => .next (s.setDev x { v with edge_pending := none })
      | .flip, some d => .next (s.setDev x { v with edge_pending := some !d })
      | _, _ => .refused .noSuchFault
    else .refused .noSuchFault

end Sys2Proof.Machine
end

