-- ==== Sys2Proof/Machine/Facade.lean ====
section
/-! DEFINITION. Facade.lean: the four host operations (rules R220 to R225) and `PUSH` (rule R228). -/

namespace Sys2Proof.Machine

/-- `CONFIGURE(id)` (rule R222): the receive buffer is cleared, the address set, reception armed. -/
def execConfigure (x : Nat) (id : Address) (s : State) : Out :=
  onDev s x fun v =>
    if v.mode = .receiving then
      .next (s.setDev x { v.clearRx with own_id := id, configured := true, rx_enable := true })
    else .refused .busyTransmitting

/-- `SEND(path, kind, v)` (rules R121, R223): the frame is built and `TRANSMIT` starts with `TX_BEGIN`; the other steps of
`TRANSMIT` are the transmitter's own operations. The refusals are those of rule R257; which one is named when several apply
is the model's (log entry 25). -/
def execSend (x : Nat) (path : List Byte) (kind : Byte) (v : BitVec 64) (s : State) : Out :=
  onDev s x fun u =>
    if u.configured = false then .refused .notConfigured
    else if u.mode = .transmitting then .refused .busyTransmitting
    else if noZeroByte path = false then .refused .pathHasZero
    else if isValueKind kind = false then .refused .notValueKind
    else beginTransmit s x (encodeDataFrame s.cfg kind path v)

/-- `SEND_REQUEST(target)` (rules R121, R224). -/
def execSendRequest (x : Nat) (target : Address) (s : State) : Out :=
  onDev s x fun u =>
    if u.configured = false then .refused .notConfigured
    else if u.mode = .transmitting then .refused .busyTransmitting
    else beginTransmit s x (encodeRequestFrame s.cfg target)

/-- `POLL` (rule R225): the oldest frame, once, or none; allowed in either mode. -/
def execPoll (x : Nat) (s : State) : Out :=
  onDev s x fun v =>
    if v.configured = false then .refused .notConfigured
    else
      match v.queue with
      | [] => .next (s.report (.polled x none))
      | f :: rest => .next ((s.setDev x { v with queue := rest }).report (.polled x (some f)))

/-- `PUSH(f)` (rule R228), the part of `REASM_ACCEPT` that writes the queue, with the guard rule R174 calls it under: the device
holds the complete, accepted frame `f` and the queue has room. It is internal to `REASM_ACCEPT`: no turn runs it by itself
(`isInternal`; log entry 12). -/
def execPush (x : Nat) (f : Frame) (s : State) : Out :=
  onDev s x fun v =>
    if complete s.cfg v && accepts v && queueHasRoom v && f == v.raw.bytes s.cfg.NB then
      .next (s.setDev x (v.pushFrame f))
    else .refused .notEnabled

end Sys2Proof.Machine
end

