-- ==== Sys2Proof/Machine/Kinds.lean ====
section
/-! DEFINITION. Kinds.lean: the rows of format `FRAME.kind` (rules R102 to R104, R115, R116). A `kind` code is no operation
of rule R14 and changes no state of the block. Its meaning is what the code decides of a frame that carries it: the kind
`DECODE` reports and whether and how the value field is read (rules R103, R104, R136). The reading is recorded as a report,
as `DECODE` records its result (log entry 7). -/

namespace Sys2Proof.Machine

/-- The reading `w` of a frame whose `path` field is `path`, made at device `x`. -/
def reportReading (s : State) (x : Nat) (path : List Byte) (w : View) : Out :=
  onDev s x fun _ =>
    if path.length = s.cfg.path_len then .next (s.report (.decoded x w)) else .refused .badOperand

/-- `UNKNOWN`, code 0: no valid kind, no value (rules R102, R115, R136). -/
def execKindUnknown (x : Nat) (rid : Address) (path : List Byte) (_val : BitVec 64) (s : State) : Out :=
  reportReading s x path { recipient_id := rid, kind := .unknown, path := pathText path, value := none }

/-- `REQUEST_ONLY`, code 1: a request frame, no meaningful value (rules R102, R103, R136). -/
def execKindRequestOnly (x : Nat) (rid : Address) (path : List Byte) (_val : BitVec 64) (s : State) : Out :=
  reportReading s x path { recipient_id := rid, kind := .requestOnly, path := pathText path, value := none }

/-- `FLOAT`, code 2: value bytes 0 to 3 are the 32-bit pattern, bytes 4 to 7 are ignored (rules R102, R104). -/
def execKindFloat (x : Nat) (rid : Address) (path : List Byte) (val : BitVec 64) (s : State) : Out :=
  reportReading s x path
    { recipient_id := rid, kind := .float, path := pathText path, value := some (.bits32 (val.setWidth 32)) }

/-- `DOUBLE`, code 3: the value bytes are the 64-bit pattern (rules R102, R104). -/
def execKindDouble (x : Nat) (rid : Address) (path : List Byte) (val : BitVec 64) (s : State) : Out :=
  reportReading s x path { recipient_id := rid, kind := .double, path := pathText path, value := some (.bits64 val) }

/-- `INT64`, code 4: the value bytes are the two's-complement pattern (rules R102, R104). -/
def execKindInt64 (x : Nat) (rid : Address) (path : List Byte) (val : BitVec 64) (s : State) : Out :=
  reportReading s x path { recipient_id := rid, kind := .int64, path := pathText path, value := some (.bits64 val) }

/-- `UINT64`, code 5: the value bytes are the unsigned value (rules R102, R104). -/
def execKindUint64 (x : Nat) (rid : Address) (path : List Byte) (val : BitVec 64) (s : State) : Out :=
  reportReading s x path { recipient_id := rid, kind := .uint64, path := pathText path, value := some (.bits64 val) }

/-- The reading of a frame of the reserved code `b`: the byte is preserved and there is no value (rule R116). -/
def reportReserved (s : State) (x : Nat) (b : Byte) (rid : Address) (path : List Byte) : Out :=
  reportReading s x path { recipient_id := rid, kind := .reserved b, path := pathText path, value := none }

/-- `KIND_RESERVED`, codes 6 and 7 (rule R116). -/
def execKindReserved6 (x : Nat) (b : BitVec 1) (rid : Address) (path : List Byte) (_val : BitVec 64) (s : State) : Out :=
  reportReserved s x (0x06 ||| b.setWidth 8) rid path

/-- `KIND_RESERVED`, codes 8 to 15 (rule R116). -/
def execKindReserved8 (x : Nat) (b : BitVec 3) (rid : Address) (path : List Byte) (_val : BitVec 64) (s : State) : Out :=
  reportReserved s x (0x08 ||| b.setWidth 8) rid path

/-- `KIND_RESERVED`, codes 16 to 31 (rule R116). -/
def execKindReserved16 (x : Nat) (b : BitVec 4) (rid : Address) (path : List Byte) (_val : BitVec 64) (s : State) : Out :=
  reportReserved s x (0x10 ||| b.setWidth 8) rid path

/-- `KIND_RESERVED`, codes 32 to 63 (rule R116). -/
def execKindReserved32 (x : Nat) (b : BitVec 5) (rid : Address) (path : List Byte) (_val : BitVec 64) (s : State) : Out :=
  reportReserved s x (0x20 ||| b.setWidth 8) rid path

/-- `KIND_RESERVED`, codes 64 to 127 (rule R116). -/
def execKindReserved64 (x : Nat) (b : BitVec 6) (rid : Address) (path : List Byte) (_val : BitVec 64) (s : State) : Out :=
  reportReserved s x (0x40 ||| b.setWidth 8) rid path

/-- `KIND_RESERVED`, codes 128 to 255 (rule R116). -/
def execKindReserved128 (x : Nat) (b : BitVec 7) (rid : Address) (path : List Byte) (_val : BitVec 64) (s : State) : Out :=
  reportReserved s x (0x80 ||| b.setWidth 8) rid path

end Sys2Proof.Machine
end

