-- ==== Sys2Proof/Machine/Reassembler.lean ====
section
/-! DEFINITION. Reassembler.lean: the operation `REASM` with its cases (rules R171 to R176). It is enabled in any `mode`,
configured or not (rule R171); every case sets `reasm_wait` to 0. -/

namespace Sys2Proof.Machine

/-- `REASM_ACCEPT`, pattern `11xx`: a complete request addressed to this device (rules R111, R174). -/
def execReasmAcceptSelf (x : Nat) (s : State) : Out :=
  onDev s x fun v =>
    if complete s.cfg v && selfRequest v then .next (acceptFrame s x v) else .refused .notEnabled

/-- `REASM_ACCEPT`, pattern `101x`: a complete frame that is no request, at the coordinator (rules R111, R174). -/
def execReasmAcceptCoord (x : Nat) (s : State) : Out :=
  onDev s x fun v =>
    if complete s.cfg v && (!selfRequest v && coordinatorFrame v) then .next (acceptFrame s x v)
    else .refused .notEnabled

/-- `REASM_REJECT` (rule R175): a complete frame the filter refuses is discarded. -/
def execReasmReject (x : Nat) (s : State) : Out :=
  onDev s x fun v =>
    if complete s.cfg v && !accepts v then
      .next ((s.setDev x v.clearRx.reasmDone).report (.drop x .filterReject))
    else .refused .notEnabled

/-- `REASM_ABANDON` (rule R176): a partial frame is discarded after the line has been quiet. -/
def execReasmAbandon (x : Nat) (s : State) : Out :=
  onDev s x fun v =>
    if midFrame s.cfg v && quiet v then
      .next ((s.setDev x v.clearRx.reasmDone).report (.drop x .abandonTimeout))
    else .refused .notEnabled

/-- `REASM_NOP` (rule R172): nothing to do; `raw` is not read. -/
def execReasmNop (x : Nat) (s : State) : Out :=
  onDev s x fun v =>
    if !complete s.cfg v && !(midFrame s.cfg v && quiet v) then .next (s.setDev x v.reasmDone)
    else .refused .notEnabled

end Sys2Proof.Machine
end

