-- ==== Sys2Proof/Machine/Sampler.lean ====
section
/-! DEFINITION. Sampler.lean: the operation `EDGE(d)` with its three cases, and `NOEDGE` (rules R151 to R155). The edge
context writes `raw`, `bit_offset`, `idle_ticks` and `edge_pending` and nothing else (rules R35, R157). -/

namespace Sys2Proof.Machine

/-- `SAMPLE(d)` (rule R152): the bit is stored at `bit_offset`, then `bit_offset` advances. -/
def execSample (x : Nat) (d : Bool) (s : State) : Out :=
  onDev s x fun v =>
    if v.edge_pending = some d ∧ v.rx_enable = true ∧ v.bit_offset < s.cfg.N then
      .next (s.setDev x
        { v with
          raw := v.raw.setBitAt v.bit_offset d
          bit_offset := v.bit_offset + 1
          idle_ticks := 0
          edge_pending := none })
    else .refused .notEnabled

/-- `EDGE_OVERRUN(d)` (rule R153): the edge is ignored, `raw` and `bit_offset` stay. -/
def execEdgeOverrun (x : Nat) (d : Bool) (s : State) : Out :=
  onDev s x fun v =>
    if v.edge_pending = some d ∧ v.rx_enable = true ∧ v.bit_offset = s.cfg.N then
      .next ((s.setDev x { v with idle_ticks := 0, edge_pending := none }).report (.drop x .overrunBit))
    else .refused .notEnabled

/-- `EDGE_MASKED(d)` (rule R154): the edge is discarded and nothing else changes. -/
def execEdgeMasked (x : Nat) (d : Bool) (s : State) : Out :=
  onDev s x fun v =>
    if v.edge_pending = some d ∧ v.rx_enable = false then
      .next (s.setDev x { v with edge_pending := none })
    else .refused .notEnabled

/-- `NOEDGE`, the strobe stays low: no state change of any kind (rule R155). -/
def execNoedgeLow (x : Nat) (s : State) : Out := onDev s x fun _ => .next s

/-- `NOEDGE`, the strobe falls: no state change of any kind (rule R155). -/
def execNoedgeFall (x : Nat) (s : State) : Out := onDev s x fun _ => .next s

/-- `NOEDGE`, the strobe stays high: no state change of any kind (rule R155). -/
def execNoedgeHigh (x : Nat) (s : State) : Out := onDev s x fun _ => .next s

end Sys2Proof.Machine
end

