-- ==== Sys2Proof/Machine/Transmitter.lean ====
section
/-! DEFINITION. Transmitter.lean: the operations of the transmitter (rules R192 to R198) and the two row names of rule R112
that are not operations. `LINK_RESOLVE` is part of every operation that writes `pin_dir`, `strobe_out` or `data_out`, in
the same atomic step (rule R270). -/

namespace Sys2Proof.Machine

/-- `TX_BEGIN(f)` (rule R192), the first operation of the `TRANSMIT` of a host `SEND` or `SEND_REQUEST`, with a frame that
`ENCODE_DATA` or `ENCODE_REQUEST` builds. No turn runs it by itself (`isInternal`; log entry 13). -/
def execTxBegin (x : Nat) (f : Frame) (s : State) : Out :=
  if f.length = s.cfg.NB ∧ builtByCodec s.cfg f = true then beginTransmit s x f else .refused .badOperand

/-- `TX_DATA` (rule R193): the data line takes bit `tx_index` of `tx_buf`. -/
def execTxData (x : Nat) (s : State) : Out :=
  onDev s x fun v =>
    if v.tx_phase = .load then
      if v.tx_index < s.cfg.N then
        resolveLink (s.setDev x
          { v with data_out := v.tx_buf.bit v.tx_index, tx_phase := .setup, tx_wait := s.cfg.t_bit_hold })
      else .fault .bufferAddress
    else .refused .notEnabled

/-- `TX_RISE` (rule R194). -/
def execTxRise (x : Nat) (s : State) : Out :=
  onDev s x fun v =>
    if v.tx_phase = .setup ∧ v.tx_wait = 0 then
      resolveLink (s.setDev x { v with strobe_out := true, tx_phase := .high, tx_wait := s.cfg.t_pulse })
    else .refused .notEnabled

/-- `TX_FALL` (rule R195). -/
def execTxFall (x : Nat) (s : State) : Out :=
  onDev s x fun v =>
    if v.tx_phase = .high ∧ v.tx_wait = 0 then
      resolveLink (s.setDev x { v with strobe_out := false, tx_phase := .low, tx_wait := s.cfg.t_bit_hold })
    else .refused .notEnabled

/-- `TX_NEXT` (rule R196). -/
def execTxNext (x : Nat) (s : State) : Out :=
  onDev s x fun v =>
    if v.tx_phase = .low ∧ v.tx_wait = 0 ∧ v.tx_index < s.cfg.N - 1 then
      .next (s.setDev x { v with tx_index := v.tx_index + 1, tx_phase := .load })
    else .refused .notEnabled

/-- `TX_FRAMEHOLD` (rule R197). -/
def execTxFramehold (x : Nat) (s : State) : Out :=
  onDev s x fun v =>
    if v.tx_phase = .low ∧ v.tx_wait = 0 ∧ v.tx_index = s.cfg.N - 1 then
      .next (s.setDev x { v with tx_index := s.cfg.N, tx_phase := .framehold, tx_wait := s.cfg.t_frame_hold })
    else .refused .notEnabled

/-- `TX_END` (rule R198): the lines are released, then reception is armed again; the blocking call returns. -/
def execTxEnd (x : Nat) (s : State) : Out :=
  onDev s x fun v =>
    if v.tx_phase = .framehold ∧ v.tx_wait = 0 then
      resolveLink ((s.report (.sendReturned x)).setDev x
        { v with pin_dir := .input, edge_pending := none, rx_enable := true, mode := .receiving, tx_phase := .off })
    else .refused .notEnabled

/-- A row of `TX_WAIT`: no operation, so no state change; time must pass (rules R14, R112; log entry 8). -/
def waitInPhase (x : Nat) (p : TxPhase) (s : State) : Out :=
  onDev s x fun v => if v.tx_phase = p ∧ v.tx_wait ≠ 0 then .next s else .refused .notEnabled

/-- `TX_WAIT` in phase `SETUP` (rule R112). -/
def execTxWaitSetup (x : Nat) (s : State) : Out := waitInPhase x .setup s

/-- `TX_WAIT` in phase `HIGH` (rule R112). -/
def execTxWaitHigh (x : Nat) (s : State) : Out := waitInPhase x .high s

/-- `TX_WAIT` in phase `LOW` (rule R112). -/
def execTxWaitLow (x : Nat) (s : State) : Out := waitInPhase x .low s

/-- `TX_WAIT` in phase `FRAMEHOLD` (rule R112). -/
def execTxWaitFramehold (x : Nat) (s : State) : Out := waitInPhase x .framehold s

/-- `TX_UNREACHABLE`: phase codes 6 and 7, which no run reaches. The row is not an operation, so it changes no state
(rules R14, R112; log entry 8). -/
def execTxUnreachable (x : Nat) (s : State) : Out :=
  onDev s x fun v => if v.tx_phase = .code6 ∨ v.tx_phase = .code7 then .next s else .refused .notEnabled

end Sys2Proof.Machine
end

