-- ==== Sys2Proof/Machine/Dispatch.lean ====
section
/-! DEFINITION. Dispatch.lean: one arm per constructor of Instr, each one call of its meaning. -/

namespace Sys2Proof.Machine

def exec (i : Instr) (s : State) : Host.Outcome State Fault Refusal :=
  match i with
  | .kindUnknown x rid path val => Sys2Proof.Machine.execKindUnknown x rid path val s
  | .kindRequestOnly x rid path val => Sys2Proof.Machine.execKindRequestOnly x rid path val s
  | .kindFloat x rid path val => Sys2Proof.Machine.execKindFloat x rid path val s
  | .kindDouble x rid path val => Sys2Proof.Machine.execKindDouble x rid path val s
  | .kindInt64 x rid path val => Sys2Proof.Machine.execKindInt64 x rid path val s
  | .kindUint64 x rid path val => Sys2Proof.Machine.execKindUint64 x rid path val s
  | .kindReserved6 x b rid path val => Sys2Proof.Machine.execKindReserved6 x b rid path val s
  | .kindReserved8 x b rid path val => Sys2Proof.Machine.execKindReserved8 x b rid path val s
  | .kindReserved16 x b rid path val => Sys2Proof.Machine.execKindReserved16 x b rid path val s
  | .kindReserved32 x b rid path val => Sys2Proof.Machine.execKindReserved32 x b rid path val s
  | .kindReserved64 x b rid path val => Sys2Proof.Machine.execKindReserved64 x b rid path val s
  | .kindReserved128 x b rid path val => Sys2Proof.Machine.execKindReserved128 x b rid path val s
  | .sample x d => Sys2Proof.Machine.execSample x d s
  | .edgeOverrun x d => Sys2Proof.Machine.execEdgeOverrun x d s
  | .edgeMasked x d => Sys2Proof.Machine.execEdgeMasked x d s
  | .noedgeLow x => Sys2Proof.Machine.execNoedgeLow x s
  | .noedgeFall x => Sys2Proof.Machine.execNoedgeFall x s
  | .noedgeHigh x => Sys2Proof.Machine.execNoedgeHigh x s
  | .reasmAcceptSelf x => Sys2Proof.Machine.execReasmAcceptSelf x s
  | .reasmAcceptCoord x => Sys2Proof.Machine.execReasmAcceptCoord x s
  | .reasmReject x => Sys2Proof.Machine.execReasmReject x s
  | .reasmAbandon x => Sys2Proof.Machine.execReasmAbandon x s
  | .reasmNop x => Sys2Proof.Machine.execReasmNop x s
  | .txBegin x f => Sys2Proof.Machine.execTxBegin x f s
  | .txData x => Sys2Proof.Machine.execTxData x s
  | .txRise x => Sys2Proof.Machine.execTxRise x s
  | .txFall x => Sys2Proof.Machine.execTxFall x s
  | .txNext x => Sys2Proof.Machine.execTxNext x s
  | .txFramehold x => Sys2Proof.Machine.execTxFramehold x s
  | .txEnd x => Sys2Proof.Machine.execTxEnd x s
  | .txWaitSetup x => Sys2Proof.Machine.execTxWaitSetup x s
  | .txWaitHigh x => Sys2Proof.Machine.execTxWaitHigh x s
  | .txWaitLow x => Sys2Proof.Machine.execTxWaitLow x s
  | .txWaitFramehold x => Sys2Proof.Machine.execTxWaitFramehold x s
  | .txUnreachable x => Sys2Proof.Machine.execTxUnreachable x s
  | .configure x id => Sys2Proof.Machine.execConfigure x id s
  | .send x path kind v => Sys2Proof.Machine.execSend x path kind v s
  | .sendRequest x target => Sys2Proof.Machine.execSendRequest x target s
  | .poll x => Sys2Proof.Machine.execPoll x s
  | .encodeData x kind path v => Sys2Proof.Machine.execEncodeData x kind path v s
  | .encodeRequest x target => Sys2Proof.Machine.execEncodeRequest x target s
  | .decodeFrame x f => Sys2Proof.Machine.execDecodeFrame x f s
  | .push x f => Sys2Proof.Machine.execPush x f s
  | .tick => Sys2Proof.Machine.execTick s
  | .linkResolve => Sys2Proof.Machine.execLinkResolve s
  | .reset x => Sys2Proof.Machine.execReset x s

end Sys2Proof.Machine
end

