-- ==== Sys2Proof/Machine/Fetch.lean ====
section
/-! DEFINITION. Fetch.lean: which agent moves next and which instruction it fetches. The block fetches no instruction words
(rule R36): an agent forms the decode vector of its format from the state (rules R110 to R112), the host issues a command
(rule R113). The order of the agents is an input (rules R23, R30), the list `sched`, under the priorities of rule R258. -/

namespace Sys2Proof.Machine

/-- The edge context of device `x` acts. -/
def edgeTurn (x : Nat) : Turn := .op .samp x 0 []

/-- The background context of device `x` runs `REASM`. -/
def reasmTurn (x : Nat) : Turn := .op .rvec x 0 []

/-- The transmitter of device `x` acts. -/
def txTurn (x : Nat) : Turn := .op .txph x 0 []

/-- Time advances. -/
def tickTurn : Turn := .op .env 0 Row.tick.pattern []

/-- What must happen before the next `TICK` (rule R258 (b)): a pending `EDGE`, an enabled transmitter operation, or a
`REASM` that is due. Among several, edges first, then the lowest device: one of the orders rule R258 (c) leaves free (log
entry 5). -/
def urgentTurn (s : State) : Option Turn :=
  match s.devs.findIdx? (fun v => v.edge_pending.isSome) with
  | some x => some (edgeTurn x)
  | none =>
    match s.devs.findIdx? (txEnabled s.cfg) with
    | some x => some (txTurn x)
    | none =>
      match s.devs.findIdx? (fun v => decide (v.params.t_reasm ≤ v.reasm_wait)) with
      | some x => some (reasmTurn x)
      | none => none

/-- Device `x` has a pending edge. -/
def edgeWaits (s : State) (x : Nat) : Bool :=
  match s.devs[x]? with
  | some v => v.edge_pending.isSome
  | none => false

/-- The turn that goes before a scheduled turn, if one must (rule R258; log entry 6): the pending `EDGE` of a device before
any other operation of that device, everything urgent before `TICK`. `RESET` clears a pending edge and does not wait for it
(rule R294; log entry 27), `LINK_RESOLVE` and line faults are no operation of a device. -/
def preemptingTurn (s : State) (t : Turn) : Option Turn :=
  match t with
  | .op .samp _ _ _ => none
  | .op .env _ code _ => if code = Row.tick.pattern then urgentTurn s else none
  | .op .kind x _ _ => if edgeWaits s x then some (edgeTurn x) else none
  | .op .rvec x _ _ => if edgeWaits s x then some (edgeTurn x) else none
  | .op .txph x _ _ => if edgeWaits s x then some (edgeTurn x) else none
  | .op .hcmd x _ _ => if edgeWaits s x then some (edgeTurn x) else none
  | .op .func x _ _ => if edgeWaits s x then some (edgeTurn x) else none
  | .lineFault _ _ => none

/-- The turn that runs now and the turns that stay scheduled. With nothing scheduled the agents that must act do so by
themselves, and else time passes (log entry 5). -/
def chooseTurn (s : State) : Turn × List Turn :=
  match s.sched with
  | [] => ((urgentTurn s).getD tickTurn, [])
  | t :: rest =>
    match preemptingTurn s t with
    | some u => (u, t :: rest)
    | none => (t, rest)

/-- The state in which the chosen turn runs: the schedule without it. -/
def afterFetch (s : State) : State := { s with sched := (chooseTurn s).2 }

/-- Byte 0 of the operation word of a turn: the vector of the agent's format, formed from the state (rules R110 to R112),
or the code the turn carries. -/
def vectorOf (s : State) (fmt : Format) (x : Nat) (code : Byte) : Byte :=
  match s.devs[x]? with
  | none => code
  | some v =>
    match fmt with
    | .samp => sampVector s v
    | .rvec => rvecVector s v
    | .txph => txphVector s v
    | .kind => code
    | .hcmd => code
    | .func => code
    | .env => code

/-- The operation word of a turn. -/
def turnBytes (s : State) (fmt : Format) (x : Nat) (code : Byte) (args : List Byte) : List Byte :=
  vectorOf s fmt x code :: fmt.tag :: args

/-- `TX_BEGIN` and `PUSH` are operations of rule R14 that only another operation performs: `SEND` or `SEND_REQUEST` the first,
`REASM_ACCEPT` the second, in its own atomic step (rules R192, R220, R228; log entries 12 and 13). -/
def isInternal (i : Instr) : Bool := i.row == .txBegin || i.row == .push

/-- What a step finds to do. -/
inductive Fetched where
  | instr (i : Instr)
  | lineFault (x : Nat) (e : LineFault)
  /-- An operation that no agent performs by itself. -/
  | internal (i : Instr)
  | bad (e : DecodeError)
deriving DecidableEq, Repr

/-- What a turn asks for in a state. -/
def fetchTurn (s : State) (t : Turn) : Fetched :=
  match t with
  | .lineFault x e => .lineFault x e
  | .op fmt x code args =>
    match decode s.cfg x (turnBytes s fmt x code args) with
    | .ok i => if isInternal i then .internal i else .instr i
    | .error e => .bad e

/-- What the next step does. -/
def fetch (s : State) : Fetched := fetchTurn (afterFetch s) (chooseTurn s).1

/-- The turn that puts an instruction on the schedule. -/
def turnOf (i : Instr) : Turn := .op i.row.format i.dev i.vector i.operandBytes

/-- Device 0 with no pending edge, so that nothing goes before its scheduled turn. -/
def quietDevice (v : Device) : Device := { v with edge_pending := none }

/-- A device whose sampler vector selects the same row as `code` (rule R110), for a rising edge. -/
def readyForEdge (c : Params) (code : Byte) (v : Device) : Device :=
  { v with
    edge_pending := some (code.getLsbD 2)
    rx_enable := code.getLsbD 1
    bit_offset := if code.getLsbD 0 then c.N else if v.bit_offset = c.N then 0 else v.bit_offset }

/-- A device whose reassembler vector selects the same row as `code` (rule R111). -/
def readyForReasm (c : Params) (code : Byte) (v : Device) : Device :=
  if code.getLsbD 3 then
    if code.getLsbD 2 then
      { quietDevice v with
        bit_offset := c.N
        raw := ((v.raw.write 0 (v.own_id.setWidth 8)).write 1 ((v.own_id >>> 8).setWidth 8)).write 2 1 }
    else if code.getLsbD 1 then { quietDevice v with bit_offset := c.N, own_id := 0, raw := v.raw.write 2 0 }
    else { quietDevice v with bit_offset := c.N, raw := (v.raw.write 0 (~~~ (v.own_id.setWidth 8))).write 2 1 }
  else if code.getLsbD 0 then
    { quietDevice v with
      bit_offset := if midFrame c v then v.bit_offset else 1
      idle_ticks := max v.idle_ticks v.params.t_abandon }
  else if !complete c v && !(midFrame c v && quiet v) then quietDevice v
  else { quietDevice v with bit_offset := 0 }

/-- A device whose transmitter vector selects the same row as `code` (rule R112). -/
def readyForTx (c : Params) (code : Byte) (v : Device) : Device :=
  { quietDevice v with
    tx_phase := phaseOf (code.toNat / 4)
    tx_wait := if code.getLsbD 1 then 0 else if v.tx_wait = 0 then 1 else v.tx_wait
    tx_index := if code.getLsbD 0 then c.N - 1 else if v.tx_index = c.N - 1 then 0 else v.tx_index }

/-- The state in which the next turn of device 0 in format `fmt` forms a vector that selects the row of `code`: the
condition bits of a vector are where such a "word" is stored (log entry 22). -/
def prepareVector (s : State) (fmt : Format) (code : Byte) : State :=
  match s.devs with
  | [] => s
  | v :: rest =>
    match fmt with
    | .samp =>
      if code.getLsbD 3 && !code.getLsbD 4 then { s with devs := readyForEdge s.cfg code v :: rest }
      else
        { s with
          devs := quietDevice v :: rest
          line_strobe := code.getLsbD 3
          strobe_prev := code.getLsbD 4 }
    | .rvec => { s with devs := readyForReasm s.cfg code v :: rest }
    | .txph => { s with devs := readyForTx s.cfg code v :: rest }
    | .kind => { s with devs := quietDevice v :: rest }
    | .hcmd => { s with devs := quietDevice v :: rest }
    | .func => { s with devs := quietDevice v :: rest }
    | .env => s

/-- The turn of device 0 for an operation word, and the state in which it fetches that word. A word whose format byte names
no format is scheduled as a word that no row matches. -/
def placeWord (s : State) (bytes : List Byte) : State :=
  match bytes with
  | code :: tag :: args =>
    match formatOf code tag with
    | .ok fmt => { prepareVector s fmt code with sched := .op fmt 0 code args :: s.sched }
    | .error _ => { s with sched := .op .env 0 255 [] :: s.sched }
  | _ => { s with sched := .op .env 0 255 [] :: s.sched }

end Sys2Proof.Machine
end

