-- ==== Sys2Proof/Machine/Step.lean ====
section
/-! DEFINITION. Step.lean: one step of the machine is one operation (rule R23), or one line fault of the environment
(rule R276). A turn that names an operation no agent performs by itself is refused. -/

namespace Sys2Proof.Machine

/-- One step: the chosen turn is fetched, decoded and run. -/
def step (s : State) : Host.Outcome State Fault Refusal :=
  match fetch s with
  | .instr i => exec i (afterFetch s)
  | .lineFault x e => applyLineFault x e (afterFetch s)
  | .internal _ => .refused .internalOperation
  | .bad e => .refused (.undecodable e)

/-- The state with the instruction whose table bits are `w` where the next step fetches: scheduled as the next turn of
device 0, with the condition bits of its vector (log entries 21 and 22). -/
def State.withFetchWord (s : State) (nbits w : Nat) : State := placeWord s (wordBytes s.cfg nbits w)

end Sys2Proof.Machine
end

