-- ==== Sys2Proof/Safety.lean ====
section
/-! DEFINITION. Safety.lean: what the claims speak of: the invariant of rule R59 with the field ranges of rule R30, the
premises of rule R322, the end state of a finite run (rule R321), the duration of a transmission (rule R199), and the receiver that
follows a sender (rules R159, R200, R201). -/

namespace Sys2Proof.Machine

/-- Rule R59 (a) to (g) for one device. Clause (g) is here the part that is a fact about the state: an entry is `NB` bytes;
that an entry passed the filter when it was pushed is a fact about the step that pushed it. -/
structure DeviceSafe (c : Params) (v : Device) : Prop where
  /-- (a) -/
  offset_le : v.bit_offset ≤ c.N
  /-- (b) -/
  tail_zero : ∀ o, v.bit_offset ≤ o → v.raw.bit o = false
  /-- (c) -/
  transmitting : v.mode = .transmitting →
    v.rx_enable = false ∧ v.pin_dir = .output ∧ v.bit_offset = 0 ∧ v.tx_phase ≠ .off
  /-- (d) -/
  receiving : v.mode = .receiving → v.pin_dir = .input ∧ v.tx_phase = .off ∧ v.strobe_out = false
  /-- (e) -/
  enabled : v.rx_enable = true → v.configured = true ∧ v.mode = .receiving
  /-- (f) -/
  unconfigured : v.configured = false → v.rx_enable = false ∧ v.bit_offset = 0 ∧ v.queue = []
  /-- (g) -/
  queue_frames : ∀ f ∈ v.queue, f.length = c.NB

/-- The legal values of rule R30, the phases the transmitter can be in (rules R38, R112), and the canonical form of the two
buffers. -/
structure DeviceRanges (c : Params) (v : Device) : Prop where
  raw_wf : v.raw.wf = true
  raw_inside : ∀ cell ∈ v.raw, cell.1 < c.NB
  txbuf_wf : v.tx_buf.wf = true
  txbuf_inside : ∀ cell ∈ v.tx_buf, cell.1 < c.NB
  phase_legal : v.tx_phase ≠ .code6 ∧ v.tx_phase ≠ .code7
  index_in_cell : v.tx_phase = .load ∨ v.tx_phase = .setup ∨ v.tx_phase = .high ∨ v.tx_phase = .low → v.tx_index < c.N
  index_in_hold : v.tx_phase = .framehold → v.tx_index = c.N
  index_le : v.tx_index ≤ c.N
  wait_le : v.tx_wait ≤ max c.t_bit_hold (max c.t_pulse c.t_frame_hold)
  strobe_high : v.strobe_out = true ↔ v.tx_phase = .high
  data_held : v.tx_phase = .setup ∨ v.tx_phase = .high ∨ v.tx_phase = .low → v.data_out = v.tx_buf.bit v.tx_index
  transmitter_configured : v.mode = .transmitting → v.configured = true
  idle_le : v.idle_ticks ≤ v.params.t_abandon
  reasm_le : v.reasm_wait ≤ v.params.t_reasm
  queue_le : ∀ n, v.params.queue_depth = some n → v.queue.length ≤ n
  overflow_finite : v.q_overflow = true → v.params.queue_depth ≠ none

/-- The link of a reachable state: at most one driver (rule R273), and the strobe line is high exactly when a driver holds
it high (rules R270, R271). -/
structure LinkSafe (s : State) : Prop where
  one_driver : ∀ (x y : Nat) (v w : Device), s.devs[x]? = some v → s.devs[y]? = some w →
    v.pin_dir = .output → w.pin_dir = .output → x = y
  strobe_driven : s.line_strobe = true ↔ ∃ v ∈ s.devs, v.pin_dir = .output ∧ v.strobe_out = true

/-- The constraints of rule R11 on all OPEN parameters of a link: the link-wide ones, those of every device, and `NDEV >= 2`.
Devices of one link may differ in their own parameters. -/
def LegalLink (s : State) : Prop :=
  s.cfg.Legal ∧ (∀ v ∈ s.devs, v.params.Legal s.cfg) ∧ 2 ≤ s.devs.length

/-- The invariant: every device and the link are safe, on a link of at least two devices whose frames have a path field (rule
R11). -/
structure Inv (s : State) : Prop where
  layout_legal : 1 ≤ s.cfg.path_len
  ndev_legal : 2 ≤ s.devs.length
  device_safe : ∀ v ∈ s.devs, DeviceSafe s.cfg v
  device_ranges : ∀ v ∈ s.devs, DeviceRanges s.cfg v
  link_safe : LinkSafe s

/-- `CleanStart` (rule R322). -/
def CleanStart (s : State) : Prop :=
  (∀ v ∈ s.devs, v = Device.initial v.params) ∧ s.now = 0 ∧ s.line_strobe = false

/-- `Armed(X, id)` (rule R322). -/
def Armed (v : Device) (id : Address) : Prop :=
  v.configured = true ∧ v.own_id = id ∧ v.rx_enable = true ∧ v.mode = .receiving

/-- `Aligned(X)` (rule R322), at the first rising edge of a transmission. -/
def Aligned (v : Device) : Prop := v.bit_offset = 0

/-- `TimingLegal` (rule R322): rules R311 and R312 at every device, and a per-bit hold of at least one tick. -/
def TimingLegal (s : State) : Prop := 1 ≤ s.cfg.t_bit_hold ∧ ∀ v ∈ s.devs, v.params.TimingLegal s.cfg

/-- `FaultFree` (rule R322). -/
def FaultFree (s : State) : Prop := s.cfg.line_faults = false

/-- `NoRefusal` (rule R322) over the next `n` steps. -/
def NoRefusal (n : Nat) (s : State) : Prop := ∃ t, Host.Core.run Sys2Proof.core n s = .next t

/-- The step from `s` queues or drops an accepted frame at device `x`: a row of `REASM_ACCEPT` (rule R174). -/
def AcceptsFrame (x : Nat) (s : State) : Prop :=
  fetch s = .instr (.reasmAcceptSelf x) ∨ fetch s = .instr (.reasmAcceptCoord x)

/-- `Drains(X)` (rules R304, R322) over the next `n` steps: the host of device `x` executes `POLL` often enough, that is,
whenever a frame is accepted there the queue has room for it (log entry 32). With an unbounded queue it always holds. -/
def Drains (x n : Nat) (s : State) : Prop :=
  ∀ (k : Nat) (t : State) (v : Device), k < n → Host.Core.run Sys2Proof.core k s = .next t → t.devs[x]? = some v →
    AcceptsFrame x t → queueHasRoom v = true

/-- A quiescent link (rule R321). -/
def Quiescent (s : State) : Prop :=
  ∀ v ∈ s.devs, v.tx_phase = .off ∧ v.edge_pending = none ∧ v.bit_offset = 0

/-- A drained link (rule R321). -/
def Drained (s : State) : Prop := Quiescent s ∧ ∀ v ∈ s.devs, v.queue = []

/-- The step from `s` is a host operation that starts a transmission: `SEND` or `SEND_REQUEST` (rules R223, R224). -/
def StartsTransmission (s : State) : Prop :=
  ∃ x, (∃ path kind val, fetch s = .instr (.send x path kind val)) ∨ ∃ target, fetch s = .instr (.sendRequest x target)

/-- Step `m` of the run of `n` steps from `s` is the last of the run that starts a transmission. -/
def LastStart (n : Nat) (s : State) (m : Nat) : Prop :=
  m < n ∧ (∃ t, Host.Core.run Sys2Proof.core m s = .next t ∧ StartsTransmission t) ∧
    ∀ k t, m < k → k < n → Host.Core.run Sys2Proof.core k s = .next t → ¬StartsTransmission t

/-- `t` is the end state of the run of `n` steps from `s` (rule R321): the first quiescent state after the last host operation of
the run that starts a transmission, with the queues as they then are. A run in which no host operation starts a transmission
has no end state (log entry 32), nor has one that stops before the link is quiescent. -/
def EndState (n : Nat) (s t : State) : Prop :=
  NoRefusal n s ∧ ∃ m e, LastStart n s m ∧ m < e ∧ e ≤ n ∧ Host.Core.run Sys2Proof.core e s = .next t ∧ Quiescent t ∧
    ∀ k u, m < k → k < e → Host.Core.run Sys2Proof.core k s = .next u → ¬Quiescent u

/-- The ticks a transmitting device still needs until its `TX_END` is enabled, by phase: what is left of the wait, of the
cell, of the cells to come and of the inter-frame hold (rules R108, R109, R199). -/
def ticksLeft (c : Params) (v : Device) : Nat :=
  match v.tx_phase with
  | .load => (c.N - v.tx_index) * c.T_BIT + c.t_frame_hold
  | .setup => v.tx_wait + (c.t_pulse + c.t_bit_hold) + (c.N - 1 - v.tx_index) * c.T_BIT + c.t_frame_hold
  | .high => v.tx_wait + c.t_bit_hold + (c.N - 1 - v.tx_index) * c.T_BIT + c.t_frame_hold
  | .low => v.tx_wait + (c.N - 1 - v.tx_index) * c.T_BIT + c.t_frame_hold
  | .framehold => v.tx_wait
  | .off => 0
  | .code6 => 0
  | .code7 => 0

/-- The bits device `a` has put on the wire so far: the rising edges it has made since its `TX_BEGIN` (rule R200). -/
def bitsOut (a : Device) : Nat :=
  match a.tx_phase with
  | .load => a.tx_index
  | .setup => a.tx_index
  | .high => a.tx_index + 1
  | .low => a.tx_index + 1
  | .framehold => a.tx_index
  | .off => 0
  | .code6 => 0
  | .code7 => 0

/-- Receiver `b` follows sender `a`: what `b` has stored, with the edge it may still have pending, is exactly what `a` has
put on the wire (rules R159, R201). An edge is pending only from the rise until the first tick of the second hold (rule
R258). -/
def Follows (a b : Device) : Prop :=
  (∀ o, o < b.bit_offset → b.raw.bit o = a.tx_buf.bit o) ∧
  (b.edge_pending = none ∧ b.bit_offset = bitsOut a ∨
    b.bit_offset + 1 = bitsOut a ∧ b.edge_pending = some (a.tx_buf.bit b.bit_offset) ∧
      (a.tx_phase = .high ∨ a.tx_phase = .low ∧ 0 < a.tx_wait))

/-- The operations `SAMPLE(d_0) ... SAMPLE(d_{k-1})` of rule R159 at device `x`; before each of them the link has delivered
its bit (rule R270). -/
def sampleBits (x : Nat) : List Bool → State → Out
  | [], s => .next s
  | d :: ds, s =>
    onDev s x fun v =>
      match exec (.sample x d) (s.setDev x { v with edge_pending := some d }) with
      | .next t => sampleBits x ds t
      | .fault e => .fault e
      | .refused r => .refused r

end Sys2Proof.Machine
end

