-- ==== Sys2Proof/Certificates/Slice0/Obligations.lean ====
section
/-! DEFINITION. Obligations.lean: the statements about the model, one definition each. `s.setDev x w` is the state `s` with
device `x` replaced by `w`, so an equation with it says that every other device, the lines, the time and the parameters stay
as they were; a record update of a device says the same of the device's other fields. -/

open Sys2Proof Sys2Proof.Machine

/-! ## The sampler -/

/-- Rule R152: `SAMPLE(d)` runs exactly when its guard holds, stores `d` as bit `bit_offset mod 8` of byte
`bit_offset div 8`, leaves the other seven bits and every other byte, advances `bit_offset`, restarts `idle_ticks` and
takes the edge. -/
def Obligations.SampleStoresOneBit : Prop :=
  ∀ (s : State) (x : Nat) (d : Bool) (v : Device), s.devs[x]? = some v → v.raw.wf = true →
    (∀ t, exec (.sample x d) s = .next t →
      v.edge_pending = some d ∧ v.rx_enable = true ∧ v.bit_offset < s.cfg.N) ∧
    (v.edge_pending = some d → v.rx_enable = true → v.bit_offset < s.cfg.N →
      ∃ m : Memory,
        exec (.sample x d) s =
          .next (s.setDev x
            { v with raw := m, bit_offset := v.bit_offset + 1, idle_ticks := 0, edge_pending := none }) ∧
        m.wf = true ∧
        (∀ k, k < 8 → (m.read (v.bit_offset / 8)).getLsbD k =
          if k = v.bit_offset % 8 then d else (v.raw.read (v.bit_offset / 8)).getLsbD k) ∧
        (∀ a, a ≠ v.bit_offset / 8 → m.read a = v.raw.read a) ∧
        rxState s.cfg { v with bit_offset := v.bit_offset + 1 } =
          if v.bit_offset + 1 = s.cfg.N then .complete else .sampling)

/-- Rule R153: an edge at a full buffer restarts `idle_ticks`, is taken, and is reported as `OVERRUN_BIT`; `raw` and
`bit_offset` stay. -/
def Obligations.EdgeOverrunIgnoresTheBit : Prop :=
  ∀ (s : State) (x : Nat) (d : Bool) (v : Device), s.devs[x]? = some v →
    (∀ t, exec (.edgeOverrun x d) s = .next t →
      v.edge_pending = some d ∧ v.rx_enable = true ∧ v.bit_offset = s.cfg.N) ∧
    (v.edge_pending = some d → v.rx_enable = true → v.bit_offset = s.cfg.N →
      exec (.edgeOverrun x d) s =
        .next ((s.setDev x { v with idle_ticks := 0, edge_pending := none }).report (.drop x .overrunBit)))

/-- Rule R154: an edge at a device whose reception is not armed is discarded and nothing else changes, whatever
`bit_offset` is. -/
def Obligations.EdgeMaskedDiscardsTheEdge : Prop :=
  ∀ (s : State) (x : Nat) (d : Bool) (v : Device), s.devs[x]? = some v →
    (∀ t, exec (.edgeMasked x d) s = .next t → v.edge_pending = some d ∧ v.rx_enable = false) ∧
    (v.edge_pending = some d → v.rx_enable = false →
      exec (.edgeMasked x d) s = .next (s.setDev x { v with edge_pending := none }))

/-- Rule R155: the three forms of `NOEDGE` change no state of any kind. -/
def Obligations.NoedgeChangesNothing : Prop :=
  ∀ (s : State) (x : Nat) (v : Device), s.devs[x]? = some v →
    exec (.noedgeLow x) s = .next s ∧ exec (.noedgeFall x) s = .next s ∧ exec (.noedgeHigh x) s = .next s

/-- Rule R151: with an edge of level `d` pending, the edge context runs exactly one of the three cases, chosen by
`rx_enable` and `bit_offset`, and the edge is no longer pending after it; none of the three runs at level `d` without a
pending edge of that level. The last clause is not rule R151's: without a pending edge the turn of the edge context runs the row of
`NOEDGE` that the strobe level now and before it select (rule R110) and changes nothing (rule R155). That the level before is
`strobe_prev`, that the levels 0 and then 1 are read as steady high, and that `NOEDGE` has no guard, is log entry 9. -/
def Obligations.EdgeContextSelectsItsCase : Prop :=
  ∀ (s : State) (x : Nat) (v : Device), s.devs[x]? = some v → v.bit_offset ≤ s.cfg.N →
    (∀ d, v.edge_pending = some d → ∃ i t w,
      fetchTurn s (edgeTurn x) = .instr i ∧
      i = (if v.rx_enable = false then .edgeMasked x d
        else if v.bit_offset = s.cfg.N then .edgeOverrun x d else .sample x d) ∧
      exec i s = .next t ∧ t.devs[x]? = some w ∧ w.edge_pending = none) ∧
    (∀ d i t, i = .sample x d ∨ i = .edgeOverrun x d ∨ i = .edgeMasked x d → exec i s = .next t →
      v.edge_pending = some d) ∧
    (v.edge_pending = none → ∃ i,
      fetchTurn s (edgeTurn x) = .instr i ∧
      i = (if s.line_strobe = true then .noedgeHigh x else if s.strobe_prev = true then .noedgeFall x
        else .noedgeLow x) ∧
      exec i s = .next s)

/-- Rule R159, the law of accumulation: from an empty armed buffer, `SAMPLE` of the bits `ds`, at most `N` of them, leaves
`bit_offset` at their number, bit `i` of `raw` at `d_i` and 0 beyond, every full byte at the sum of its bits' weights, and,
when the bits are those of a whole frame `f`, `raw` equal to `f`. -/
def Obligations.SampledBitsAccumulate : Prop :=
  ∀ (s : State) (x : Nat) (v : Device) (ds : List Bool), s.devs[x]? = some v → v.bit_offset = 0 →
    v.rx_enable = true → v.raw.wf = true → (∀ a, v.raw.read a = 0) → ds.length ≤ s.cfg.N →
    ∃ t w, sampleBits x ds s = .next t ∧ t.devs[x]? = some w ∧ w.bit_offset = ds.length ∧
      (∀ i, w.raw.bit i = ds.getD i false) ∧
      (∀ a, 8 * (a + 1) ≤ ds.length →
        (w.raw.read a).toNat = ((List.range 8).map (fun j => (ds.getD (8 * a + j) false).toNat * 2 ^ j)).sum) ∧
      (∀ f : Frame, f.length = s.cfg.NB → ds = (List.range s.cfg.N).map (frameBit f) → w.raw.bytes s.cfg.NB = f)

/-! ## The reassembler -/

/-- Rule R173: the address filter, row by row of its table, and the filter on the buffer is the filter on the frame the
buffer holds. -/
def Obligations.AddressFilter : Prop :=
  (∀ (id : Address) (f : Frame),
    (id = 0 → f.getD 2 0 ≠ 1 → frameAccepted id f = true) ∧
    (id = 0 → f.getD 2 0 = 1 → (f.getD 0 0).toNat + 256 * (f.getD 1 0).toNat = 0 → frameAccepted id f = true) ∧
    (id = 0 → f.getD 2 0 = 1 → (f.getD 0 0).toNat + 256 * (f.getD 1 0).toNat ≠ 0 → frameAccepted id f = false) ∧
    (id ≠ 0 → f.getD 2 0 = 1 → (f.getD 0 0).toNat + 256 * (f.getD 1 0).toNat = id.toNat →
      frameAccepted id f = true) ∧
    (id ≠ 0 → f.getD 2 0 = 1 → (f.getD 0 0).toNat + 256 * (f.getD 1 0).toNat ≠ id.toNat →
      frameAccepted id f = false) ∧
    (id ≠ 0 → f.getD 2 0 ≠ 1 → frameAccepted id f = false)) ∧
  (∀ (c : Params) (v : Device), accepts v = frameAccepted v.own_id (v.raw.bytes c.NB))

/-- Rule R174: both forms of `REASM_ACCEPT` run exactly on a complete frame that their clause of the filter accepts. With
room in the queue the `NB` bytes of `raw` go to its back; without, `q_overflow` is set and `QUEUE_FULL` reported; in both
cases the buffer is given back, all zero. -/
def Obligations.ReasmAcceptQueuesTheFrame : Prop :=
  ∀ (s : State) (x : Nat) (v : Device), s.devs[x]? = some v →
    (∀ t, exec (.reasmAcceptSelf x) s = .next t ∨ exec (.reasmAcceptCoord x) s = .next t →
      v.bit_offset = s.cfg.N ∧ frameAccepted v.own_id (v.raw.bytes s.cfg.NB) = true) ∧
    (∀ i : Instr,
      (i = .reasmAcceptSelf x ∧ (v.raw.read 0).toNat + 256 * (v.raw.read 1).toNat = v.own_id.toNat ∧
          v.raw.read 2 = 1 ∨
        i = .reasmAcceptCoord x ∧ v.own_id = 0 ∧ v.raw.read 2 ≠ 1) →
      v.bit_offset = s.cfg.N →
      ((∀ n, v.params.queue_depth = some n → v.queue.length < n) →
        exec i s =
          .next (s.setDev x
            { v with
              queue := v.queue ++ [v.raw.bytes s.cfg.NB], raw := [], idle_ticks := 0, bit_offset := 0
              reasm_wait := 0 })) ∧
      (∀ n, v.params.queue_depth = some n → n ≤ v.queue.length →
        exec i s =
          .next ((s.setDev x
            { v with q_overflow := true, raw := [], idle_ticks := 0, bit_offset := 0, reasm_wait := 0 }).report
              (.drop x .queueFull))))

/-- Rule R175: `REASM_REJECT` runs exactly on a complete frame that the filter refuses; it discards the frame, reports
`FILTER_REJECT` and does not touch the queue. -/
def Obligations.ReasmRejectDiscardsTheFrame : Prop :=
  ∀ (s : State) (x : Nat) (v : Device), s.devs[x]? = some v →
    (∀ t, exec (.reasmReject x) s = .next t →
      v.bit_offset = s.cfg.N ∧ frameAccepted v.own_id (v.raw.bytes s.cfg.NB) = false) ∧
    (v.bit_offset = s.cfg.N → frameAccepted v.own_id (v.raw.bytes s.cfg.NB) = false →
      exec (.reasmReject x) s =
        .next ((s.setDev x { v with raw := [], idle_ticks := 0, bit_offset := 0, reasm_wait := 0 }).report
          (.drop x .filterReject)))

/-- Rule R176: `REASM_ABANDON` runs exactly on a partial frame after `T_ABANDON` quiet ticks; it discards the bits and
reports `ABANDON_TIMEOUT`. -/
def Obligations.ReasmAbandonDiscardsThePart : Prop :=
  ∀ (s : State) (x : Nat) (v : Device), s.devs[x]? = some v →
    (∀ t, exec (.reasmAbandon x) s = .next t →
      0 < v.bit_offset ∧ v.bit_offset < s.cfg.N ∧ v.params.t_abandon ≤ v.idle_ticks) ∧
    (0 < v.bit_offset → v.bit_offset < s.cfg.N → v.params.t_abandon ≤ v.idle_ticks →
      exec (.reasmAbandon x) s =
        .next ((s.setDev x { v with raw := [], idle_ticks := 0, bit_offset := 0, reasm_wait := 0 }).report
          (.drop x .abandonTimeout)))

/-- Rule R172: `REASM_NOP` runs exactly when there is neither a complete frame nor a partial one that is overdue, and sets
`reasm_wait` to 0. -/
def Obligations.ReasmNopOnlyRestartsItsTimer : Prop :=
  ∀ (s : State) (x : Nat) (v : Device), s.devs[x]? = some v →
    (∀ t, exec (.reasmNop x) s = .next t →
      v.bit_offset ≠ s.cfg.N ∧ ¬(0 < v.bit_offset ∧ v.bit_offset < s.cfg.N ∧ v.params.t_abandon ≤ v.idle_ticks)) ∧
    (v.bit_offset ≠ s.cfg.N → ¬(0 < v.bit_offset ∧ v.bit_offset < s.cfg.N ∧ v.params.t_abandon ≤ v.idle_ticks) →
      exec (.reasmNop x) s = .next (s.setDev x { v with reasm_wait := 0 }))

/-- Rule R171: in every state, in any `mode`, configured or not, the background context runs exactly one of the four cases
of `REASM`, chosen by completeness, the filter, partiality and quiet, and `reasm_wait` is 0 after it. -/
def Obligations.ReasmSelectsItsCase : Prop :=
  ∀ (s : State) (x : Nat) (v : Device), s.devs[x]? = some v →
    ∃ i t w,
      fetchTurn s (reasmTurn x) = .instr i ∧
      (if v.bit_offset = s.cfg.N then
        (if frameAccepted v.own_id (v.raw.bytes s.cfg.NB) = true then
          i = .reasmAcceptSelf x ∨ i = .reasmAcceptCoord x else i = .reasmReject x)
      else if 0 < v.bit_offset ∧ v.bit_offset < s.cfg.N ∧ v.params.t_abandon ≤ v.idle_ticks then i = .reasmAbandon x
      else i = .reasmNop x) ∧
      exec i s = .next t ∧ t.devs[x]? = some w ∧ w.reasm_wait = 0

/-! ## The transmitter -/

/-- Rule R192: `TX_BEGIN(f)` runs exactly at a configured device that receives, while no other device drives the lines, with a
frame that `ENCODE_DATA` or `ENCODE_REQUEST` builds. What was being received is discarded, with the report `TX_ABANDON` if there
was anything; the device drives both lines low; `tx_buf` holds `f`. A pending edge stays pending. No device gets an edge. That
the operation is issued by `SEND` or `SEND_REQUEST` is no fact about `exec` but about steps (log entry 13): it is the statement
`InternalOperationsAreNoTurns`. -/
def Obligations.TxBeginEntersTransmission : Prop :=
  ∀ (s : State) (x : Nat) (f : Frame) (v : Device), s.devs[x]? = some v → 1 ≤ s.cfg.path_len →
    (∀ t, exec (.txBegin x f) s = .next t →
      v.configured = true ∧ v.mode = .receiving ∧ v.tx_phase = .off ∧
        (∀ y w, y ≠ x → s.devs[y]? = some w → w.pin_dir = .input) ∧
        ((∃ target, f = encodeRequestFrame s.cfg target) ∨
          ∃ (kind : Byte) (path : List Byte) (val : BitVec 64), (kind = 2 ∨ kind = 3 ∨ kind = 4 ∨ kind = 5) ∧
            (∀ b ∈ path, b ≠ 0) ∧ f = encodeDataFrame s.cfg kind path val)) ∧
    (v.configured = true → v.mode = .receiving → v.tx_phase = .off →
      (∀ y w, y ≠ x → s.devs[y]? = some w → w.pin_dir = .input) →
      ((∃ target, f = encodeRequestFrame s.cfg target) ∨
        ∃ (kind : Byte) (path : List Byte) (val : BitVec 64), (kind = 2 ∨ kind = 3 ∨ kind = 4 ∨ kind = 5) ∧
          (∀ b ∈ path, b ≠ 0) ∧ f = encodeDataFrame s.cfg kind path val) →
      ∃ m : Memory,
        exec (.txBegin x f) s =
          .next
            { s with
              devs := s.devs.set x
                { v with
                  rx_enable := false, raw := [], idle_ticks := 0, bit_offset := 0, strobe_out := false
                  data_out := false, pin_dir := .output, mode := .transmitting, tx_buf := m, tx_index := 0
                  tx_phase := .load, tx_wait := 0 }
              reports := if v.bit_offset = 0 then s.reports else .drop x .txAbandon :: s.reports
              strobe_prev := s.line_strobe
              line_strobe := false
              line_data := false } ∧
        m.wf = true ∧ (∀ a, m.read a = f.getD a 0))

/-- Rule R193: `TX_DATA` runs exactly in phase `LOAD` and puts bit `tx_index` of `tx_buf` on the data line, with the strobe
low, for a first hold of `T_BIT_HOLD`. The premises on the lines hold in every reachable state. -/
def Obligations.TxDataDrivesTheBit : Prop :=
  ∀ (s : State) (x : Nat) (v : Device), s.devs[x]? = some v → v.pin_dir = .output → v.strobe_out = false →
    v.tx_index < s.cfg.N → (∀ y w, y ≠ x → s.devs[y]? = some w → w.pin_dir = .input) →
    (∀ t, exec (.txData x) s = .next t → v.tx_phase = .load) ∧
    (v.tx_phase = .load →
      exec (.txData x) s =
        .next
          { s with
            devs := s.devs.set x
              { v with
                data_out := (v.tx_buf.read (v.tx_index / 8)).getLsbD (v.tx_index % 8), tx_phase := .setup
                tx_wait := s.cfg.t_bit_hold }
            strobe_prev := s.line_strobe
            line_strobe := false
            line_data := (v.tx_buf.read (v.tx_index / 8)).getLsbD (v.tx_index % 8) })

/-- Rules R194 and R270: `TX_RISE` runs exactly in phase `SETUP` after its hold; the strobe rises and every listening device,
armed or not, gets the edge with the sender's data level; the sender gets none. -/
def Obligations.TxRiseDeliversTheBit : Prop :=
  ∀ (s : State) (x : Nat) (v : Device), s.devs[x]? = some v → v.pin_dir = .output → s.line_strobe = false →
    (∀ y w, y ≠ x → s.devs[y]? = some w → w.pin_dir = .input) →
    (∀ t, exec (.txRise x) s = .next t → v.tx_phase = .setup ∧ v.tx_wait = 0) ∧
    (v.tx_phase = .setup → v.tx_wait = 0 →
      ∃ devs : List Device,
        exec (.txRise x) s =
          .next { s with devs := devs, strobe_prev := false, line_strobe := true, line_data := v.data_out } ∧
        devs.length = s.devs.length ∧
        devs[x]? = some { v with strobe_out := true, tx_phase := .high, tx_wait := s.cfg.t_pulse } ∧
        (∀ y w, y ≠ x → s.devs[y]? = some w → devs[y]? = some { w with edge_pending := some v.data_out }))

/-- Rule R195: `TX_FALL` runs exactly in phase `HIGH` after the pulse; the strobe falls, the data line keeps the bit, no device
gets an edge. -/
def Obligations.TxFallEndsThePulse : Prop :=
  ∀ (s : State) (x : Nat) (v : Device), s.devs[x]? = some v → v.pin_dir = .output →
    (∀ y w, y ≠ x → s.devs[y]? = some w → w.pin_dir = .input) →
    (∀ t, exec (.txFall x) s = .next t → v.tx_phase = .high ∧ v.tx_wait = 0) ∧
    (v.tx_phase = .high → v.tx_wait = 0 →
      exec (.txFall x) s =
        .next
          { s with
            devs := s.devs.set x { v with strobe_out := false, tx_phase := .low, tx_wait := s.cfg.t_bit_hold }
            strobe_prev := s.line_strobe
            line_strobe := false
            line_data := v.data_out })

/-- Rule R196: `TX_NEXT` runs exactly after the second hold of a bit that is not the last, and goes to the next bit. -/
def Obligations.TxNextGoesToTheNextBit : Prop :=
  ∀ (s : State) (x : Nat) (v : Device), s.devs[x]? = some v →
    (∀ t, exec (.txNext x) s = .next t → v.tx_phase = .low ∧ v.tx_wait = 0 ∧ v.tx_index < s.cfg.N - 1) ∧
    (v.tx_phase = .low → v.tx_wait = 0 → v.tx_index < s.cfg.N - 1 →
      exec (.txNext x) s = .next (s.setDev x { v with tx_index := v.tx_index + 1, tx_phase := .load }))

/-- Rule R197: `TX_FRAMEHOLD` runs exactly after the second hold of the last bit and starts the inter-frame hold; the lines
stay as they are. -/
def Obligations.TxFrameholdHoldsTheLines : Prop :=
  ∀ (s : State) (x : Nat) (v : Device), s.devs[x]? = some v →
    (∀ t, exec (.txFramehold x) s = .next t → v.tx_phase = .low ∧ v.tx_wait = 0 ∧ v.tx_index = s.cfg.N - 1) ∧
    (v.tx_phase = .low → v.tx_wait = 0 → v.tx_index = s.cfg.N - 1 →
      exec (.txFramehold x) s =
        .next (s.setDev x { v with tx_index := s.cfg.N, tx_phase := .framehold, tx_wait := s.cfg.t_frame_hold }))

/-- Rules R198 and R271: `TX_END` runs exactly after the inter-frame hold; the lines are released, reception is armed, no edge
is carried over and none is delivered; the data line takes a free value; the blocking call returns (the report is the model's
record of it, log entry 14). -/
def Obligations.TxEndReturnsToReceiving : Prop :=
  ∀ (s : State) (x : Nat) (v : Device), s.devs[x]? = some v →
    (∀ y w, y ≠ x → s.devs[y]? = some w → w.pin_dir = .input) →
    (∀ t, exec (.txEnd x) s = .next t → v.tx_phase = .framehold ∧ v.tx_wait = 0) ∧
    (v.tx_phase = .framehold → v.tx_wait = 0 →
      exec (.txEnd x) s =
        .next
          { s with
            devs := s.devs.set x
              { v with
                pin_dir := .input, edge_pending := none, rx_enable := true, mode := .receiving, tx_phase := .off }
            reports := .sendReturned x :: s.reports
            free_count := s.free_count + 1
            strobe_prev := s.line_strobe
            line_strobe := false
            line_data := Config.undrivenData s.free_count })

/-- Rule R112: the rows `TX_WAIT` and `TX_UNREACHABLE` are no operations; where their pattern holds they change nothing (that
the model runs them as steps at all is log entry 8). -/
def Obligations.TxRowsThatAreNoOperations : Prop :=
  ∀ (s : State) (x : Nat) (v : Device), s.devs[x]? = some v →
    (v.tx_wait ≠ 0 →
      (v.tx_phase = .setup → exec (.txWaitSetup x) s = .next s) ∧
      (v.tx_phase = .high → exec (.txWaitHigh x) s = .next s) ∧
      (v.tx_phase = .low → exec (.txWaitLow x) s = .next s) ∧
      (v.tx_phase = .framehold → exec (.txWaitFramehold x) s = .next s)) ∧
    (v.tx_phase = .code6 ∨ v.tx_phase = .code7 → exec (.txUnreachable x) s = .next s)

/-- Rule R112: what the transmitter's agent fetches, for every phase, wait and index. In phase `OFF` the row is `TX_BEGIN`, which
needs a host `SEND` or `SEND_REQUEST`: the transmitter's own turn reads it (with the frame of the turn as operand, log entry 2)
as an operation it does not perform by itself (log entry 13). -/
def Obligations.TransmitterSelectsItsRow : Prop :=
  ∀ (s : State) (x : Nat) (v : Device), s.devs[x]? = some v →
    (v.tx_phase = .load → fetchTurn s (txTurn x) = .instr (.txData x)) ∧
    (v.tx_phase = .setup →
      fetchTurn s (txTurn x) = .instr (if v.tx_wait = 0 then .txRise x else .txWaitSetup x)) ∧
    (v.tx_phase = .high →
      fetchTurn s (txTurn x) = .instr (if v.tx_wait = 0 then .txFall x else .txWaitHigh x)) ∧
    (v.tx_phase = .low →
      fetchTurn s (txTurn x) =
        .instr (if v.tx_wait = 0 then (if v.tx_index = s.cfg.N - 1 then .txFramehold x else .txNext x)
          else .txWaitLow x)) ∧
    (v.tx_phase = .framehold →
      fetchTurn s (txTurn x) = .instr (if v.tx_wait = 0 then .txEnd x else .txWaitFramehold x)) ∧
    (v.tx_phase = .code6 ∨ v.tx_phase = .code7 → fetchTurn s (txTurn x) = .instr (.txUnreachable x)) ∧
    (v.tx_phase = .off → ∀ f : Frame, f.length = s.cfg.NB →
      fetchTurn s (.op .txph x 0 f) = .internal (.txBegin x f))

/-! ## The host operations and the queue -/

/-- Rule R222: `CONFIGURE(id)` sets the address, clears the receive buffer, keeps the queue and arms reception. -/
def Obligations.ConfigureArmsReception : Prop :=
  ∀ (s : State) (x : Nat) (id : Address) (v : Device), s.devs[x]? = some v →
    (v.mode = .receiving →
      exec (.configure x id) s =
        .next (s.setDev x
          { v with
            raw := [], idle_ticks := 0, bit_offset := 0, own_id := id, configured := true, rx_enable := true })) ∧
    (v.mode = .transmitting → ∃ r, exec (.configure x id) s = .refused r)

/-- Rules R223 and R121: `SEND` of a path without 0 bytes and a value kind, at a configured receiving device while no other
device drives the lines, starts the transmission of the frame `ENCODE_DATA` builds: it does what `TX_BEGIN` of that frame
does, in the same step (log entry 13), and it does take effect. -/
def Obligations.SendTransmitsTheDataFrame : Prop :=
  ∀ (s : State) (x : Nat) (path : List Byte) (kind : Byte) (val : BitVec 64) (v : Device), s.devs[x]? = some v →
    1 ≤ s.cfg.path_len → v.configured = true → v.mode = .receiving → v.tx_phase = .off →
    (∀ y w, y ≠ x → s.devs[y]? = some w → w.pin_dir = .input) → (∀ b ∈ path, b ≠ 0) →
    (kind = 2 ∨ kind = 3 ∨ kind = 4 ∨ kind = 5) →
    ∃ t w f, exec (.send x path kind val) s = .next t ∧
      exec (.encodeData x kind path val) s = .next (s.report (.encoded x f)) ∧
      exec (.txBegin x f) s = .next t ∧ t.devs[x]? = some w ∧ w.mode = .transmitting ∧
      (∀ a, w.tx_buf.read a = f.getD a 0)

/-- Rules R224 and R121: `SEND_REQUEST(target)` starts the transmission of the frame `ENCODE_REQUEST` builds: it does what
`TX_BEGIN` of that frame does, in the same step (log entry 13). -/
def Obligations.SendRequestTransmitsTheRequest : Prop :=
  ∀ (s : State) (x : Nat) (target : Address) (v : Device), s.devs[x]? = some v → v.configured = true →
    v.mode = .receiving → v.tx_phase = .off → (∀ y w, y ≠ x → s.devs[y]? = some w → w.pin_dir = .input) →
    ∃ t w f, exec (.sendRequest x target) s = .next t ∧
      exec (.encodeRequest x target) s = .next (s.report (.encoded x f)) ∧
      exec (.txBegin x f) s = .next t ∧ t.devs[x]? = some w ∧ w.mode = .transmitting ∧
      (∀ a, w.tx_buf.read a = f.getD a 0)

/-- Rule R225: `POLL` at a configured device, in either mode, returns the oldest frame and removes it, or returns none and
changes nothing (the report is the model's record of what is returned, log entry 14). -/
def Obligations.PollReturnsTheOldestFrame : Prop :=
  ∀ (s : State) (x : Nat) (v : Device), s.devs[x]? = some v →
    (v.configured = true →
      (v.queue = [] → exec (.poll x) s = .next { s with reports := .polled x none :: s.reports }) ∧
      (∀ f rest, v.queue = f :: rest →
        exec (.poll x) s =
          .next
            { s with
              devs := s.devs.set x { v with queue := rest }
              reports := .polled x (some f) :: s.reports })) ∧
    (v.configured = false → ∃ r, exec (.poll x) s = .refused r)

/-- Rule R228: `PUSH(f)`, where rule R174 calls it (a complete accepted frame `f` in the buffer, room in the queue), appends `f`
at the back and changes nothing else. That `exec` gives `PUSH`, which is no turn, this guard is log entry 12. -/
def Obligations.PushAppendsAtTheBack : Prop :=
  ∀ (s : State) (x : Nat) (f : Frame) (v : Device), s.devs[x]? = some v → v.bit_offset = s.cfg.N →
    f = v.raw.bytes s.cfg.NB → frameAccepted v.own_id f = true →
    (∀ n, v.params.queue_depth = some n → v.queue.length < n) →
    exec (.push x f) s = .next (s.setDev x { v with queue := v.queue ++ [f] })

/-- A host operation at a device of the link is refused exactly in the cases of the list of rule R257, and never faults. That list
names contention for `TX_BEGIN` only; that `SEND` and `SEND_REQUEST` are refused for it too rests on their performing `TX_BEGIN` in
their own step (log entry 13), with rules R273 and R305.
The premise on the phase is invariant (d) of rule R59. A refused step has no next state. -/
def Obligations.HostRefusalsAreExactlyTheListed : Prop :=
  ∀ (s : State) (x : Nat) (v : Device), s.devs[x]? = some v → (v.mode = .receiving → v.tx_phase = .off) →
    (∀ id, (∃ r, exec (.configure x id) s = .refused r) ↔ v.mode = .transmitting) ∧
    ((∃ r, exec (.poll x) s = .refused r) ↔ v.configured = false) ∧
    (∀ target, (∃ r, exec (.sendRequest x target) s = .refused r) ↔
      v.configured = false ∨ v.mode = .transmitting ∨
        ∃ y w, y ≠ x ∧ s.devs[y]? = some w ∧ w.pin_dir = .output) ∧
    (∀ path kind val, (∃ r, exec (.send x path kind val) s = .refused r) ↔
      v.configured = false ∨ v.mode = .transmitting ∨ (0 : Byte) ∈ path ∨
        ¬(kind = 2 ∨ kind = 3 ∨ kind = 4 ∨ kind = 5) ∨
        ∃ y w, y ≠ x ∧ s.devs[y]? = some w ∧ w.pin_dir = .output) ∧
    ((∃ y w, y ≠ x ∧ s.devs[y]? = some w ∧ w.pin_dir = .output) →
      ∀ f, f.length = s.cfg.NB → ∃ r, exec (.txBegin x f) s = .refused r) ∧
    (∀ i, i = .poll x ∨ (∃ id, i = .configure x id) ∨ (∃ target, i = .sendRequest x target) ∨
      (∃ path kind val, i = .send x path kind val) → ∀ e, exec i s ≠ .fault e)

/-! ## The codec -/

/-- Rules R134, R133 and R137: the bytes of a data frame, one by one; outside its domain the function is refused. -/
def Obligations.EncodeDataBuildsTheFrame : Prop :=
  ∀ (s : State) (x : Nat) (kind : Byte) (path : List Byte) (val : BitVec 64) (v : Device), s.devs[x]? = some v →
    1 ≤ s.cfg.path_len →
    ((∀ b ∈ path, b ≠ 0) → (kind = 2 ∨ kind = 3 ∨ kind = 4 ∨ kind = 5) →
      ∃ f : Frame, exec (.encodeData x kind path val) s = .next { s with reports := .encoded x f :: s.reports } ∧
        f.length = s.cfg.path_len + 11 ∧ f.getD 0 0 = 0 ∧ f.getD 1 0 = 0 ∧ f.getD 2 0 = kind ∧
        (∀ j, j < s.cfg.path_len → f.getD (3 + j) 0 = if j < s.cfg.path_len - 1 then path.getD j 0 else 0) ∧
        (∀ j, j < 8 → f.getD (3 + s.cfg.path_len + j) 0 =
          if kind = 2 ∧ 4 ≤ j then 0 else BitVec.ofNat 8 (val.toNat / 256 ^ j))) ∧
    ((0 : Byte) ∈ path ∨ ¬(kind = 2 ∨ kind = 3 ∨ kind = 4 ∨ kind = 5) →
      ∃ r, exec (.encodeData x kind path val) s = .refused r)

/-- Rule R135: the bytes of a request frame. -/
def Obligations.EncodeRequestBuildsTheFrame : Prop :=
  ∀ (s : State) (x : Nat) (target : Address) (v : Device), s.devs[x]? = some v →
    exec (.encodeRequest x target) s =
      .next
        { s with
          reports :=
            .encoded x ([BitVec.ofNat 8 target.toNat, BitVec.ofNat 8 (target.toNat / 256), 1] ++
              List.replicate (s.cfg.path_len + 8) 0) :: s.reports }

/-- Rule R136: `DECODE` of `NB` bytes, field by field: the little-endian address, the kind of the byte, the bytes of the path
before its first 0 byte, and the pattern of the value for the kinds that have one. -/
def Obligations.DecodeReadsTheFields : Prop :=
  ∀ (s : State) (x : Nat) (f : Frame) (v : Device), s.devs[x]? = some v → f.length = s.cfg.NB →
    ∃ w : View, exec (.decodeFrame x f) s = .next { s with reports := .decoded x w :: s.reports } ∧
      w.recipient_id.toNat = (f.getD 0 0).toNat + 256 * (f.getD 1 0).toNat ∧
      (w.kind = if f.getD 2 0 = 0 then .unknown else if f.getD 2 0 = 1 then .requestOnly
        else if f.getD 2 0 = 2 then .float else if f.getD 2 0 = 3 then .double
        else if f.getD 2 0 = 4 then .int64 else if f.getD 2 0 = 5 then .uint64 else .reserved (f.getD 2 0)) ∧
      w.path.length ≤ s.cfg.path_len ∧
      (∀ j, j < w.path.length → w.path[j]? = f[3 + j]? ∧ f.getD (3 + j) 0 ≠ 0) ∧
      (w.path.length < s.cfg.path_len → f.getD (3 + w.path.length) 0 = 0) ∧
      (f.getD 2 0 = 2 → ∃ p : BitVec 32, w.value = some (.bits32 p) ∧
        p.toNat = ((List.range 4).map (fun j => (f.getD (3 + s.cfg.path_len + j) 0).toNat * 2 ^ (8 * j))).sum) ∧
      (f.getD 2 0 = 3 ∨ f.getD 2 0 = 4 ∨ f.getD 2 0 = 5 → ∃ p : BitVec 64, w.value = some (.bits64 p) ∧
        p.toNat = ((List.range 8).map (fun j => (f.getD (3 + s.cfg.path_len + j) 0).toNat * 2 ^ (8 * j))).sum) ∧
      (¬(f.getD 2 0 = 2 ∨ f.getD 2 0 = 3 ∨ f.getD 2 0 = 4 ∨ f.getD 2 0 = 5) → w.value = none)

/-- Rule R138: what `DECODE` gives of the frames the two encoders build. A path that does not fit comes back cut after
`PATH_LEN - 1` bytes; a value comes back as its pattern. -/
def Obligations.CodecRoundTrip : Prop :=
  ∀ c : Params, 1 ≤ c.path_len →
    (∀ (path : List Byte) (val : BitVec 64), (∀ b ∈ path, b ≠ 0) →
      (val.toNat < 2 ^ 32 →
        decodeView c (encodeDataFrame c 2 path val) =
          { recipient_id := 0, kind := .float
            path := if path.length ≤ c.path_len - 1 then path else path.take (c.path_len - 1)
            value := some (.bits32 (val.setWidth 32)) }) ∧
      (∀ code k, (code, k) ∈ [((3 : Byte), Kind.double), (4, .int64), (5, .uint64)] →
        decodeView c (encodeDataFrame c code path val) =
          { recipient_id := 0, kind := k
            path := if path.length ≤ c.path_len - 1 then path else path.take (c.path_len - 1)
            value := some (.bits64 val) })) ∧
    (∀ t : Address,
      decodeView c (encodeRequestFrame c t) = { recipient_id := t, kind := .requestOnly, path := [], value := none })

/-- Rule R139: the encoders never produce kind 0 or a reserved code, always end the path field in a 0 byte, and always
produce exactly `NB` bytes. -/
def Obligations.EncodersStayInTheFormat : Prop :=
  ∀ (c : Params), 1 ≤ c.path_len → ∀ f : Frame,
    (∃ (k : Byte) (path : List Byte) (val : BitVec 64), (k = 2 ∨ k = 3 ∨ k = 4 ∨ k = 5) ∧ (∀ b ∈ path, b ≠ 0) ∧
        f = encodeDataFrame c k path val) ∨
      (∃ t, f = encodeRequestFrame c t) →
    f.length = c.NB ∧ 1 ≤ (f.getD 2 0).toNat ∧ (f.getD 2 0).toNat ≤ 5 ∧ f.getD (2 + c.path_len) 0 = 0

/-- Rules R102, R104 and R116: each of the twelve rows of `FRAME.kind` reads a frame that carries its code as `DECODE` reads
it. That a row of this format is run as the reading of such a frame is the model's choice (log entry 7). -/
def Obligations.KindRowsReadAsDecodeDoes : Prop :=
  ∀ (s : State) (x : Nat) (v : Device) (rid : Address) (path : List Byte) (val : BitVec 64) (i : Instr) (code : Nat),
    s.devs[x]? = some v → path.length = s.cfg.path_len →
    (i = .kindUnknown x rid path val ∧ code = 0 ∨ i = .kindRequestOnly x rid path val ∧ code = 1 ∨
      i = .kindFloat x rid path val ∧ code = 2 ∨ i = .kindDouble x rid path val ∧ code = 3 ∨
      i = .kindInt64 x rid path val ∧ code = 4 ∨ i = .kindUint64 x rid path val ∧ code = 5 ∨
      (∃ b, i = .kindReserved6 x b rid path val ∧ code = 6 + b.toNat) ∨
      (∃ b, i = .kindReserved8 x b rid path val ∧ code = 8 + b.toNat) ∨
      (∃ b, i = .kindReserved16 x b rid path val ∧ code = 16 + b.toNat) ∨
      (∃ b, i = .kindReserved32 x b rid path val ∧ code = 32 + b.toNat) ∨
      (∃ b, i = .kindReserved64 x b rid path val ∧ code = 64 + b.toNat) ∨
      (∃ b, i = .kindReserved128 x b rid path val ∧ code = 128 + b.toNat)) →
    exec i s =
      .next
        { s with
          reports :=
            .decoded x (decodeView s.cfg (leBytes 2 rid.toNat ++ [BitVec.ofNat 8 code] ++ path ++ leBytes 8 val.toNat))
              :: s.reports }

/-! ## Time, the link, reset -/

/-- Rules R262 and R258 (b): `TICK` runs exactly when no device has a pending edge, an enabled transmitter operation or an
overdue reassembler; it counts `tx_wait` down to 0, `idle_ticks` up to `T_ABANDON` and `reasm_wait` up, at every device, and
advances `now`. -/
def Obligations.TickAdvancesTheTimers : Prop :=
  ∀ s : State,
    ((∃ t, exec .tick s = .next t) ↔
      ∀ v ∈ s.devs, v.edge_pending = none ∧ v.reasm_wait < v.params.t_reasm ∧ v.tx_phase ≠ .load ∧
        (v.tx_phase = .setup ∨ v.tx_phase = .high ∨ v.tx_phase = .framehold → v.tx_wait ≠ 0) ∧
        (v.tx_phase = .low → v.tx_index < s.cfg.N → v.tx_wait ≠ 0)) ∧
    (∀ t, exec .tick s = .next t →
      t = { s with now := s.now + 1, devs := t.devs } ∧ t.devs.length = s.devs.length ∧
      ∀ (x : Nat) (v : Device), s.devs[x]? = some v →
        t.devs[x]? = some
          { v with
            tx_wait := if 0 < v.tx_wait then v.tx_wait - 1 else v.tx_wait
            idle_ticks := if v.idle_ticks < v.params.t_abandon then v.idle_ticks + 1 else v.idle_ticks
            reasm_wait := v.reasm_wait + 1 })

/-- Rules R270, R271 and R273: `LINK_RESOLVE` by the number of drivers: none, then the strobe reads 0 and the data line a free
value; one, then the lines take its levels and a rise of the strobe delivers the data level to every listening device; two, then
it is refused. -/
def Obligations.LinkResolveByDrivers : Prop :=
  ∀ s : State,
    ((∀ v ∈ s.devs, v.pin_dir = .input) →
      exec .linkResolve s =
        .next
          { s with
            free_count := s.free_count + 1, strobe_prev := s.line_strobe, line_strobe := false
            line_data := Config.undrivenData s.free_count }) ∧
    (∀ (x : Nat) (v : Device), s.devs[x]? = some v → v.pin_dir = .output →
      (∀ y w, y ≠ x → s.devs[y]? = some w → w.pin_dir = .input) →
      ∃ devs : List Device,
        exec .linkResolve s =
          .next
            { s with
              devs := devs, strobe_prev := s.line_strobe, line_strobe := v.strobe_out, line_data := v.data_out } ∧
        devs[x]? = some v ∧ devs.length = s.devs.length ∧
        ∀ y w, y ≠ x → s.devs[y]? = some w →
          devs[y]? = some (if s.line_strobe = false ∧ v.strobe_out = true
            then { w with edge_pending := some v.data_out } else w)) ∧
    (∀ (x y : Nat) (v w : Device), s.devs[x]? = some v → s.devs[y]? = some w → x ≠ y → v.pin_dir = .output →
      w.pin_dir = .output → ∃ r, exec .linkResolve s = .refused r)

/-- Rule R290: `RESET` of a device, in any mode, on a link whose lines agree with their drivers: every field of the device takes
its reset value and its parameters stay, no other device changes, `now` stays, and the lines are those of the remaining driver
or undriven. That an undriven data line takes a fresh free value at every `RESET`, also of a device that is already reset, is
the model's reading of rules R270 and R271 (log entry 28). -/
def Obligations.ResetPutsTheDeviceInItsInitialState : Prop :=
  ∀ (s : State) (x : Nat) (v : Device), s.devs[x]? = some v → LinkSafe s →
    ∃ t, exec (.reset x) s = .next t ∧
      t.devs = s.devs.set x
        { raw := [], bit_offset := 0, own_id := 0, configured := false, rx_enable := false, mode := .receiving
          pin_dir := .input, strobe_out := false, data_out := false, tx_buf := [], tx_index := 0, tx_phase := .off
          tx_wait := 0, queue := [], q_overflow := false, idle_ticks := 0, edge_pending := none, reasm_wait := 0
          params := v.params } ∧
      t.cfg = s.cfg ∧ t.now = s.now ∧ t.reports = s.reports ∧ t.sched = s.sched ∧ t.strobe_prev = s.line_strobe ∧
      ((∀ y w, y ≠ x → s.devs[y]? = some w → w.pin_dir = .input) →
        t.line_strobe = false ∧ t.line_data = Config.undrivenData s.free_count ∧ t.free_count = s.free_count + 1) ∧
      (∀ y w, y ≠ x → s.devs[y]? = some w → w.pin_dir = .output →
        t.line_strobe = w.strobe_out ∧ t.line_data = w.data_out ∧ t.free_count = s.free_count)

/-- Rule R276: with line faults off the environment disturbs nothing; with them on it can, at a listening device, add an edge
where none is pending, lose one, or invert its data bit, and nothing else; at a device that drives the lines it can do nothing.
That loss and inversion act on the edge just delivered is the model's (log entry 18). -/
def Obligations.LineFaultsOnlyTouchTheEdge : Prop :=
  ∀ (s : State) (x : Nat) (v : Device), s.devs[x]? = some v →
    (s.cfg.line_faults = false → ∀ e, ∃ r, applyLineFault x e s = .refused r) ∧
    (s.cfg.line_faults = true → v.pin_dir = .input →
      (v.edge_pending = none → ∀ d,
        applyLineFault x (.spurious d) s = .next (s.setDev x { v with edge_pending := some d })) ∧
      (∀ d, v.edge_pending = some d →
        applyLineFault x .lose s = .next (s.setDev x { v with edge_pending := none }) ∧
        applyLineFault x .flip s = .next (s.setDev x { v with edge_pending := some !d }))) ∧
    (∀ e t, applyLineFault x e s = .next t → s.cfg.line_faults = true ∧ v.pin_dir = .input ∧
      ∃ p, t = s.setDev x { v with edge_pending := p })

/-- The state after reset: every field of every device, but its parameters, at the value of the reset column of rule R30, which
rules R290 and R291 write; the strobe line and `now` as rule R293 says. That the link of that state has at least two devices
(rule R11's constraint on `NDEV`) is a consequence of the two the model chose (log entry 1). Nothing is said of the values of the
parameters there (log entry 1), nor of the level of the undriven data line (log entry 11). -/
def Obligations.ResetValues : Prop :=
  (∀ v ∈ State.reset.devs,
    v = { raw := [], bit_offset := 0, own_id := 0, configured := false, rx_enable := false, mode := .receiving
          pin_dir := .input, strobe_out := false, data_out := false, tx_buf := [], tx_index := 0, tx_phase := .off
          tx_wait := 0, queue := [], q_overflow := false, idle_ticks := 0, edge_pending := none, reasm_wait := 0
          params := v.params }) ∧
  2 ≤ State.reset.devs.length ∧ State.reset.line_strobe = false ∧ State.reset.now = 0

/-! ## The step -/

/-- A step runs the decoded instruction: when the bytes of the chosen turn decode to `i`, the step is `exec i` in the state
whose schedule has lost that turn; but the two operations that only another operation performs, `TX_BEGIN` and `PUSH`, are refused
as turns (rules R192, R220, R228; log entries 12 and 13). With a schedule the first turn is chosen unless something must go
before it; without one, the agents that must act are, and else time passes (log entries 4, 5 and 6). -/
def Obligations.StepRunsTheDecodedInstruction : Prop :=
  ∀ (s : State) (fmt : Format) (x : Nat) (code : Byte) (args : List Byte) (rest : List Turn) (i : Instr),
    (chooseTurn s = (.op fmt x code args, rest) → decode s.cfg x (turnBytes s fmt x code args) = .ok i →
      (i.row ≠ .txBegin → i.row ≠ .push → step s = exec i { s with sched := rest }) ∧
      (i.row = .txBegin ∨ i.row = .push → ∃ r, step s = .refused r)) ∧
    (∀ t, s.sched = t :: rest → preemptingTurn s t = none → chooseTurn s = (t, rest)) ∧
    (∀ t u, s.sched = t :: rest → preemptingTurn s t = some u → chooseTurn s = (u, s.sched)) ∧
    (s.sched = [] → chooseTurn s = ((urgentTurn s).getD tickTurn, []))

/-- Rule R258 (a) and (b): while device `x` has a pending edge, a step that was to run an operation of `x` (other than
`RESET`, log entry 27) or a `TICK` runs an edge operation instead; and with nothing scheduled, too, a pending edge comes first. That the
turn that waits stays at the head of the schedule is log entry 6, that something runs with nothing scheduled log entry 5. -/
def Obligations.PendingEdgeGoesFirst : Prop :=
  ∀ (s : State) (x : Nat) (v : Device), s.devs[x]? = some v → v.edge_pending.isSome = true →
    (∀ fmt code args rest, s.sched = .op fmt x code args :: rest → fmt ≠ .samp → fmt ≠ .env →
      fetch s = fetchTurn s (edgeTurn x) ∧ (afterFetch s).sched = s.sched) ∧
    ((∃ rest, s.sched = tickTurn :: rest) ∨ s.sched = [] →
      ∃ y w, s.devs[y]? = some w ∧ w.edge_pending.isSome = true ∧ fetch s = fetchTurn s (edgeTurn y))

/-- Words of the five formats that have bits, written out from the tables of rules R102, R110 to R113 and R116, decode to the
instructions they stand for (the format byte and the operand layout are the model's, log entry 2). -/
def Obligations.TableWordsDecode : Prop :=
  decode Params.initial 3
      ([0b00000010, 1, 0x34, 0x12, 0x2F, 0x74] ++ List.replicate 30 0 ++ [0, 0, 0xBC, 0x41, 0, 0, 0, 0]) =
    .ok (.kindFloat 3 0x1234 ([0x2F, 0x74] ++ List.replicate 30 0) 0x41BC0000) ∧
  decode Params.initial 3 ([0b10000010, 1, 0, 0x80] ++ List.replicate 32 0x2F ++ [0xEF, 0xCD, 0xAB, 0x89, 0x67, 0x45, 0x23, 1]) =
    .ok (.kindReserved128 3 2 0x8000 (List.replicate 32 0x2F) 0x0123456789ABCDEF) ∧
  decode Params.initial 3 [0b00001110, 2] = .ok (.sample 3 true) ∧
  decode Params.initial 3 [0b00001011, 2] = .ok (.edgeOverrun 3 false) ∧
  decode Params.initial 3 [0b00001110, 3] = .ok (.reasmAcceptSelf 3) ∧
  decode Params.initial 3 [0b00001010, 3] = .ok (.reasmAcceptCoord 3) ∧
  decode Params.initial 3 [0b00010011, 4] = .ok (.txFramehold 3) ∧
  decode Params.initial 3 [0b00010010, 4] = .ok (.txNext 3) ∧
  decode Params.initial 3 [0b00000000, 5, 0x34, 0x12] = .ok (.configure 3 0x1234) ∧
  decode Params.initial 3 [0b00000001, 5, 2, 0, 0, 0xBC, 0x41, 0, 0, 0, 0, 2, 0, 0, 0, 0x2F, 0x74] =
    .ok (.send 3 [0x2F, 0x74] 2 0x41BC0000) ∧
  decode Params.initial 3 [0b00000011, 5] = .ok (.poll 3)

/-- Decoding the encoding of any well-formed instruction, with anything after it, gives the instruction back. The byte form is the
model's (log entry 2): the format byte, the operand bytes, and the patterns of the rows of `FUNC` and `ENV`, which have none in
the spec (rule R124); a `FLOAT` operand is well formed up to 32 bits (log entry 26). -/
def Obligations.DecodeEncode : Prop :=
  ∀ (c : Params) (i : Instr) (rest : List Byte), i.wellFormed c = true → decode c i.dev (encode i ++ rest) = .ok i

/-- Every instruction the decoder reads is well formed, happens at the device it was read at (the instructions of the link
apart), and its row is one that the first byte of the word matches. The byte form is the model's (log entry 2), with masks also for
the rows of `FUNC` and `ENV`, which have none in the spec (rule R124); so are the reading of format byte 0 (log entry 3) and the
refusal of `FLOAT` operands of more than 32 bits (log entry 26). -/
def Obligations.DecodedIsWellFormed : Prop :=
  ∀ (c : Params) (x : Nat) (bytes : List Byte) (i : Instr), decode c x bytes = .ok i →
    i.wellFormed c = true ∧ (i.dev = x ∨ i = .tick ∨ i = .linkResolve) ∧ i.row.matches (bytes.getD 0 0) = true

/-- Two buffers in canonical form that read the same at every address are the same buffer. -/
def Obligations.CanonicalBuffersAreEqual : Prop :=
  ∀ m m' : Memory, m.wf = true → m'.wf = true → (∀ a, m.read a = m'.read a) → m = m'

/-! ## Properties of every step -/

/-- Rule R59 with the field ranges of rule R30, the canonical form of the buffers and rules R270, R271 and R273 for the lines: a
step from any state that has them leads to a state that has them. The canonical form is the model's (log entry 19). -/
def Obligations.InvariantKept : Prop :=
  ∀ s t : State, Inv s → step s = .next t → Inv t

/-- The invariant holds after reset, and the parameters of that state (log entry 1) satisfy every constraint of rule R11. -/
def Obligations.InvariantAtReset : Prop := Inv State.reset ∧ LegalLink State.reset

/-- Rule R318: with nothing scheduled a step always goes on; no state that satisfies the invariant is a deadlock (what acts then
is log entry 5). -/
def Obligations.NoDeadlock : Prop :=
  ∀ s : State, Inv s → s.sched = [] → ∃ t, step s = .next t

/-- Rule R318: with nothing scheduled and legal timing, time advances after finitely many steps (what acts then is log entry
5). -/
def Obligations.TimeAdvances : Prop :=
  ∀ s : State, Inv s → TimingLegal s → s.sched = [] →
    ∃ n t, Host.Core.run Sys2Proof.core n s = .next t ∧ t.now = s.now + 1

/-- Rule R50: no step changes a parameter, neither the link's nor a device's own; no step adds or removes a device. -/
def Obligations.ParametersNeverChange : Prop :=
  ∀ s t : State, step s = .next t → t.cfg = s.cfg ∧ t.devs.length = s.devs.length ∧
    ∀ (x : Nat) (v w : Device), s.devs[x]? = some v → t.devs[x]? = some w → w.params = v.params

/-- Rule R37: at every operation the `bit_offset` of a device stays, or grows by one in a `SAMPLE` of that device below `N`, or
goes to 0 in one of the operations the rule lists or in the `SEND` or `SEND_REQUEST` that performs `TX_BEGIN`, which the rule does
list, in its own step (log entry 13). -/
def Obligations.BitOffsetMoves : Prop :=
  ∀ (i : Instr) (s t : State) (x : Nat) (v w : Device), exec i s = .next t → s.devs[x]? = some v →
    t.devs[x]? = some w →
    w.bit_offset = v.bit_offset ∨
      (w.bit_offset = v.bit_offset + 1 ∧ v.bit_offset < s.cfg.N ∧ ∃ d, i = .sample x d) ∨
      (w.bit_offset = 0 ∧
        (i = .reasmAcceptSelf x ∨ i = .reasmAcceptCoord x ∨ i = .reasmReject x ∨ i = .reasmAbandon x ∨
          (∃ f, i = .txBegin x f) ∨ (∃ p k u, i = .send x p k u) ∨ (∃ a, i = .sendRequest x a) ∨
          (∃ a, i = .configure x a) ∨ i = .reset x))

/-- Rules R47 and R231: the `mode` of a device changes only to `TRANSMITTING` in `TX_BEGIN` (or the `SEND` or `SEND_REQUEST` that
starts with it) and only to `RECEIVING` in `TX_END` or `RESET`. The rules list `TX_BEGIN` and not `SEND` or `SEND_REQUEST`: that these
perform it in their own step is log entry 13. -/
def Obligations.ModeMoves : Prop :=
  ∀ (i : Instr) (s t : State) (x : Nat) (v w : Device), exec i s = .next t → s.devs[x]? = some v →
    t.devs[x]? = some w →
    w.mode = v.mode ∨
      (v.mode = .receiving ∧ w.mode = .transmitting ∧
        ((∃ f, i = .txBegin x f) ∨ (∃ p k u, i = .send x p k u) ∨ ∃ a, i = .sendRequest x a)) ∨
      (w.mode = .receiving ∧ (i = .txEnd x ∨ i = .reset x))

/-- Rules R51, R132 and R182: at every operation a device's queue stays, or gains at its back the `NB` bytes of a complete frame
that the filter accepts under the current `own_id`, or loses its oldest frame to a `POLL` that returns it, or is emptied by
`RESET`. In a step the gain is that of `REASM_ACCEPT`, which gives the buffer back, so that each accepted frame is queued once and
frames leave in the order in which they were accepted; `PUSH` is one of the operations but no step (log entry 12). -/
def Obligations.QueueMoves : Prop :=
  (∀ (i : Instr) (s t : State) (x : Nat) (v w : Device), exec i s = .next t → s.devs[x]? = some v →
    t.devs[x]? = some w →
    w.queue = v.queue ∨
      (w.queue = v.queue ++ [v.raw.bytes s.cfg.NB] ∧ v.bit_offset = s.cfg.N ∧
        frameAccepted v.own_id (v.raw.bytes s.cfg.NB) = true ∧
        (i = .reasmAcceptSelf x ∨ i = .reasmAcceptCoord x ∨ ∃ f, i = .push x f)) ∨
      (∃ f, v.queue = f :: w.queue ∧ i = .poll x ∧ t.reports = .polled x (some f) :: s.reports) ∨
      (w.queue = [] ∧ i = .reset x)) ∧
  (∀ (s t : State) (x : Nat) (v w : Device), step s = .next t → s.devs[x]? = some v → t.devs[x]? = some w →
    w.queue = v.queue ∨
      (w.queue = v.queue ++ [v.raw.bytes s.cfg.NB] ∧ v.bit_offset = s.cfg.N ∧
        frameAccepted v.own_id (v.raw.bytes s.cfg.NB) = true ∧ w.raw = [] ∧ w.bit_offset = 0 ∧
        (fetch s = .instr (.reasmAcceptSelf x) ∨ fetch s = .instr (.reasmAcceptCoord x))) ∨
      (∃ f, v.queue = f :: w.queue ∧ fetch s = .instr (.poll x) ∧ t.reports = .polled x (some f) :: s.reports) ∨
      (w.queue = [] ∧ fetch s = .instr (.reset x)))

/-- Rules R62 and R274: an operation of one device changes no field of another device but `edge_pending`, and that only where the
strobe line rises and the other device listens, to the new level of the data line. `TICK` is the one operation of all devices. -/
def Obligations.OtherDevicesSeeOnlyTheLines : Prop :=
  ∀ (i : Instr) (s t : State) (y : Nat) (v w : Device), exec i s = .next t → i ≠ .tick →
    (i.dev = y → i = .linkResolve) → s.devs[y]? = some v → t.devs[y]? = some w →
    w = v ∨
      (w = { v with edge_pending := some t.line_data } ∧ v.pin_dir = .input ∧ s.line_strobe = false ∧
        t.line_strobe = true)

/-- Rule R258 (d) with rule R250: a step reports at most one outcome, so at most one drop cause, and takes back none.
The list of reports is the model's record of outcomes (log entry 14). -/
def Obligations.AtMostOneDropInAStep : Prop :=
  ∀ s t : State, step s = .next t → t.reports = s.reports ∨ ∃ r, t.reports = r :: s.reports

/-- Rule R292: at a device that is not configured every edge is `EDGE_MASKED`, every `REASM` is `REASM_NOP`, and `SEND`,
`SEND_REQUEST` and `POLL` are refused. The premise is invariant (f) of rule R59. -/
def Obligations.UnconfiguredDeviceIsInert : Prop :=
  ∀ (s : State) (x : Nat) (v : Device), s.devs[x]? = some v → v.configured = false → DeviceSafe s.cfg v →
    (∀ d, v.edge_pending = some d → fetchTurn s (edgeTurn x) = .instr (.edgeMasked x d)) ∧
    fetchTurn s (reasmTurn x) = .instr (.reasmNop x) ∧
    (∀ path kind val, ∃ r, exec (.send x path kind val) s = .refused r) ∧
    (∀ target, ∃ r, exec (.sendRequest x target) s = .refused r) ∧ (∃ r, exec (.poll x) s = .refused r)

/-- Rules R199 and R191: the ticks of a transmission. `TX_BEGIN` leaves `N * T_BIT + T_FRAME_HOLD` of them; in every step during the
transmission, what is left plus `now` stays the same; `TX_RISE` of bit `k` comes `k * T_BIT + T_BIT_HOLD` ticks after `TX_BEGIN`; and
`TX_END` comes when none is left. -/
def Obligations.TransmissionTakesItsTime : Prop :=
  (∀ (s t : State) (x : Nat) (f : Frame) (w : Device), exec (.txBegin x f) s = .next t → t.devs[x]? = some w →
    ticksLeft t.cfg w = s.cfg.N * (2 * s.cfg.t_bit_hold + s.cfg.t_pulse) + s.cfg.t_frame_hold ∧ t.now = s.now) ∧
  (∀ (s t : State) (x : Nat) (v w : Device), Inv s → step s = .next t → s.devs[x]? = some v → t.devs[x]? = some w →
    v.mode = .transmitting → w.mode = .transmitting → ticksLeft t.cfg w + t.now = ticksLeft s.cfg v + s.now) ∧
  (∀ (s t : State) (x : Nat) (v : Device), Inv s → s.devs[x]? = some v → exec (.txRise x) s = .next t →
    ticksLeft s.cfg v + v.tx_index * s.cfg.T_BIT + s.cfg.t_bit_hold = s.cfg.N * s.cfg.T_BIT + s.cfg.t_frame_hold) ∧
  (∀ (s t : State) (x : Nat) (v : Device), s.devs[x]? = some v → exec (.txEnd x) s = .next t → ticksLeft s.cfg v = 0)

/-- Rules R200 and R34: during a transmission `tx_buf` does not change; the strobe output rises exactly when the number of bits
on the wire grows by one, and the data output then is the bit of that number; that number is 0 after `TX_BEGIN` and `N` in the
inter-frame hold. -/
def Obligations.TransmissionMakesItsWaveform : Prop :=
  (∀ (s t : State) (x : Nat) (v w : Device), Inv s → step s = .next t → s.devs[x]? = some v → t.devs[x]? = some w →
    v.mode = .transmitting → w.mode = .transmitting →
    w.tx_buf = v.tx_buf ∧
      (v.strobe_out = false ∧ w.strobe_out = true →
        bitsOut w = bitsOut v + 1 ∧ w.data_out = v.tx_buf.bit (bitsOut v)) ∧
      (¬(v.strobe_out = false ∧ w.strobe_out = true) → bitsOut w = bitsOut v)) ∧
  (∀ (s t : State) (x : Nat) (f : Frame) (w : Device), exec (.txBegin x f) s = .next t → t.devs[x]? = some w →
    bitsOut w = 0) ∧
  (∀ (s : State) (v : Device), Inv s → v ∈ s.devs → v.tx_phase = .framehold → bitsOut v = s.cfg.N)

/-- Rule R201, the step of its induction: on a link without line faults, as long as the sender keeps transmitting and the receiver
stays armed and is not cleared, what the receiver has stored, with the edge it may still have pending, is what the sender has
put on the wire. -/
def Obligations.ReceiverFollowsTheSender : Prop :=
  ∀ (s t : State) (x y : Nat) (a b a' b' : Device), x ≠ y → Inv s → 1 ≤ s.cfg.t_bit_hold → s.cfg.line_faults = false →
    s.devs[x]? = some a → s.devs[y]? = some b → a.mode = .transmitting → b.rx_enable = true → Follows a b →
    step s = .next t → t.devs[x]? = some a' → t.devs[y]? = some b' → a'.mode = .transmitting → b'.rx_enable = true →
    b.bit_offset ≤ b'.bit_offset → Follows a' b'

/-- Rule R201, its two ends: a receiver with `bit_offset` 0 and no pending edge follows a sender that has just begun, whose
`tx_buf` is the frame; and a receiver that follows a sender which has put all its bits on the wire holds, once it has taken
its last edge, the whole of the sender's frame, complete. -/
def Obligations.FollowingDeliversTheFrame : Prop :=
  (∀ (s t : State) (x y : Nat) (f : Frame) (a b : Device), x ≠ y → exec (.txBegin x f) s = .next t →
    t.devs[x]? = some a → t.devs[y]? = some b → b.bit_offset = 0 → b.edge_pending = none →
    Follows a b ∧ a.tx_buf.bytes s.cfg.NB = f) ∧
  (∀ (c : Params) (a b : Device), Follows a b → bitsOut a = c.N → b.edge_pending = none →
    b.bit_offset = c.N ∧ b.raw.bytes c.NB = a.tx_buf.bytes c.NB)

/-- Rules R192, R220 and R228: no turn runs `TX_BEGIN` or `PUSH` by itself, whatever word it carries and whatever the state; a
step that chooses such a turn is refused. So a step that takes a device from `RECEIVING` to `TRANSMITTING` is a host `SEND` or
`SEND_REQUEST` at that device (that these perform `TX_BEGIN` in their own step is log entry 13), and a step that adds to a queue
is a `REASM_ACCEPT` of that device, which appends the frame in the buffer (that it performs `PUSH` in its own step is log entry
12). -/
def Obligations.InternalOperationsAreNoTurns : Prop :=
  (∀ (s : State) (t : Turn) (x : Nat) (f : Frame),
    fetchTurn s t ≠ .instr (.txBegin x f) ∧ fetchTurn s t ≠ .instr (.push x f)) ∧
  (∀ (s : State) (x : Nat) (f : Frame), fetch s = .internal (.txBegin x f) ∨ fetch s = .internal (.push x f) →
    ∃ r, step s = .refused r) ∧
  (∀ (s t : State) (x : Nat) (v w : Device), step s = .next t → s.devs[x]? = some v → t.devs[x]? = some w →
    v.mode = .receiving → w.mode = .transmitting →
    ∃ f : Frame, (∀ a, w.tx_buf.read a = f.getD a 0) ∧
      ((∃ target, fetch s = .instr (.sendRequest x target) ∧ f = encodeRequestFrame s.cfg target) ∨
        ∃ kind path val, fetch s = .instr (.send x path kind val) ∧ f = encodeDataFrame s.cfg kind path val)) ∧
  (∀ (s t : State) (x : Nat) (v w : Device), step s = .next t → s.devs[x]? = some v → t.devs[x]? = some w →
    v.queue.length < w.queue.length →
    (fetch s = .instr (.reasmAcceptSelf x) ∨ fetch s = .instr (.reasmAcceptCoord x)) ∧
      w.queue = v.queue ++ [v.raw.bytes s.cfg.NB])
end

