-- ==== Sys2Proof/Laws/Decode.lean ====
section
/-! SUPPORT. Laws/Decode.lean: how an operation word is read: the format byte, the row a vector selects, the word of a turn. -/

namespace Sys2Proof.Machine

/-- The format byte of a format names that format. -/
@[simp] theorem formatOf_tag (w : Byte) (fmt : Format) : formatOf w fmt.tag = .ok fmt := by
  cases fmt <;> rfl

/-- A word whose vector selects a row of its format is read by that row. -/
theorem decode_of_findRow (c : Params) (x : Nat) (w : Byte) (fmt : Format) (args : List Byte) (r : Row)
    (h : findRow fmt w = some r) : decode c x (w :: fmt.tag :: args) = readOperands c x w args r := by
  simp [decode, h]

/-- What a turn of a format fetches, when its vector selects a row. -/
theorem fetchTurn_op (s : State) (fmt : Format) (x : Nat) (code : Byte) (args : List Byte) (r : Row) (i : Instr)
    (h : findRow fmt (vectorOf s fmt x code) = some r)
    (hi : readOperands s.cfg x (vectorOf s fmt x code) args r = .ok i) :
    fetchTurn s (.op fmt x code args) = if isInternal i then .internal i else .instr i := by
  simp only [fetchTurn, turnBytes, decode_of_findRow _ _ _ _ _ _ h, hi]

/-- No turn fetches `TX_BEGIN` or `PUSH` to run it (rules R192, R228). -/
theorem fetchTurn_instr (s : State) (t : Turn) (i : Instr) (h : fetchTurn s t = .instr i) : isInternal i = false := by
  unfold fetchTurn at h
  split at h
  · cases h
  · split at h
    · next hi =>
      split at h
      · cases h
      · next hn => cases h; simpa using hn
    · cases h

theorem vectorOf_samp (s : State) (x : Nat) (code : Byte) (v : Device) (h : s.devs[x]? = some v) :
    vectorOf s .samp x code = sampVector s v := by
  simp [vectorOf, h]

theorem vectorOf_rvec (s : State) (x : Nat) (code : Byte) (v : Device) (h : s.devs[x]? = some v) :
    vectorOf s .rvec x code = rvecVector s v := by
  simp [vectorOf, h]

theorem vectorOf_txph (s : State) (x : Nat) (code : Byte) (v : Device) (h : s.devs[x]? = some v) :
    vectorOf s .txph x code = txphVector s v := by
  simp [vectorOf, h]

/-- The formats whose words carry their own code. -/
theorem vectorOf_code (s : State) (fmt : Format) (x : Nat) (code : Byte)
    (h : fmt = .kind ∨ fmt = .hcmd ∨ fmt = .func ∨ fmt = .env) : vectorOf s fmt x code = code := by
  unfold vectorOf
  rcases h with rfl | rfl | rfl | rfl <;> cases s.devs[x]? <;> rfl

/-- The row of the sampler's table for a vector `p s d e f` (rule R110). -/
def sampRowOf (p st e f : Bool) : Row :=
  if p then (if st then .noedgeHigh else .noedgeFall)
  else if st then (if e then (if f then .edgeOverrun else .sample) else .edgeMasked)
  else .noedgeLow

theorem findRow_samp : ∀ p st d e f : Bool,
    findRow .samp (vectorByte [p, st, d, e, f]) = some (sampRowOf p st e f) ∧
      (vectorByte [p, st, d, e, f]).getLsbD 2 = d := by decide

/-- The row of the reassembler's table for a vector `c s g q` (rule R111). -/
def rvecRowOf (c st g q : Bool) : Row :=
  if c then (if st then .reasmAcceptSelf else if g then .reasmAcceptCoord else .reasmReject)
  else if q then .reasmAbandon else .reasmNop

theorem findRow_rvec : ∀ c st g q : Bool, findRow .rvec (vectorByte [c, st, g, q]) = some (rvecRowOf c st g q) := by
  decide

/-- The row of the transmitter's table for a phase and the bits `w` and `l` (rule R112). -/
def txphRowOf (p : TxPhase) (w l : Bool) : Row :=
  match p with
  | .off => .txBegin
  | .load => .txData
  | .setup => if w then .txRise else .txWaitSetup
  | .high => if w then .txFall else .txWaitHigh
  | .low => if w then (if l then .txFramehold else .txNext) else .txWaitLow
  | .framehold => if w then .txEnd else .txWaitFramehold
  | .code6 => .txUnreachable
  | .code7 => .txUnreachable

theorem findRow_txph (p : TxPhase) (w l : Bool) :
    findRow .txph (vectorByte [(phaseCode p).testBit 2, (phaseCode p).testBit 1, (phaseCode p).testBit 0, w, l]) =
      some (txphRowOf p w l) := by
  cases p <;> cases w <;> cases l <;> decide

end Sys2Proof.Machine
end

