-- ==== Sys2Proof/Laws/Memory.lean ====
section
/-! SUPPORT. Laws/Memory.lean: the laws of a buffer: read after write, and the canonical form (guide, "Memory"). -/

namespace Sys2Proof.Machine

@[simp] theorem Memory.read_nil (a : Nat) : Memory.read [] a = 0 := rfl

theorem Memory.read_cons (k : Nat) (b : Byte) (m : Memory) (a : Nat) :
    Memory.read ((k, b) :: m) a = if k = a then b else Memory.read m a := rfl

/-- A cleared buffer reads 0 everywhere (rule R18, `MemWrite(0, NB, zeros(NB))`). -/
@[simp] theorem Memory.read_cleared (a : Nat) : Memory.cleared.read a = 0 := rfl

@[simp] theorem Memory.bit_nil (o : Nat) : Memory.bit [] o = false := by
  simp [Memory.bit]

/-- The canonical form, cell by cell. -/
theorem Memory.wf_nil : Memory.wf [] = true := rfl

theorem Memory.wf_cons (k : Nat) (b : Byte) (m : Memory) :
    Memory.wf ((k, b) :: m) = true ↔ (∀ cell ∈ m, k < cell.1) ∧ b ≠ 0 ∧ m.wf = true := by
  simp only [Memory.wf, List.map_cons, List.pairwise_cons, List.all_cons, Bool.and_eq_true,
    decide_eq_true_eq, List.mem_map, forall_exists_index, and_imp, forall_apply_eq_imp_iff₂, bne_iff_ne, ne_eq]
  exact ⟨fun ⟨⟨h1, h2⟩, h3, h4⟩ => ⟨h1, h3, h2, h4⟩, fun ⟨h1, h3, h2, h4⟩ => ⟨⟨h1, h2⟩, h3, h4⟩⟩

/-- In canonical form nothing is listed below the first address. -/
theorem Memory.read_of_lt (m : Memory) (a : Nat) (h : ∀ cell ∈ m, a < cell.1) : m.read a = 0 := by
  induction m with
  | nil => rfl
  | cons cell m ih =>
    obtain ⟨k, b⟩ := cell
    have hk : a < k := h (k, b) (by simp)
    rw [Memory.read_cons, if_neg (by omega)]
    exact ih fun cell hc => h cell (by simp [hc])

/-- An address that no cell holds reads 0. -/
theorem Memory.read_of_not_mem (m : Memory) (a : Nat) (h : ∀ cell ∈ m, cell.1 ≠ a) : m.read a = 0 := by
  induction m with
  | nil => rfl
  | cons cell m ih =>
    obtain ⟨k, b⟩ := cell
    rw [Memory.read_cons, if_neg (h (k, b) (by simp))]
    exact ih fun cell hc => h cell (by simp [hc])

/-- The addresses a write can list: the old ones and the written one. -/
theorem Memory.mem_write (m : Memory) (a : Nat) (b : Byte) (cell : Host.Cell) (h : cell ∈ m.write a b) :
    cell ∈ m ∨ cell = (a, b) := by
  induction m with
  | nil =>
    simp only [Memory.write] at h
    split at h <;> simp_all
  | cons c m ih =>
    obtain ⟨k, v⟩ := c
    simp only [Memory.write] at h
    split at h
    · split at h
      · exact .inl h
      · exact (List.mem_cons.1 h).symm
    · split at h
      · split at h
        · exact .inl (List.mem_cons_of_mem _ h)
        · rcases List.mem_cons.1 h with h | h
          · exact .inr h
          · exact .inl (List.mem_cons_of_mem _ h)
      · rcases List.mem_cons.1 h with h | h
        · exact .inl (h ▸ List.mem_cons_self)
        · rcases ih h with h | h
          · exact .inl (List.mem_cons_of_mem _ h)
          · exact .inr h

/-- Every write keeps the canonical form. -/
theorem Memory.wf_write (m : Memory) (a : Nat) (b : Byte) (h : m.wf = true) : (m.write a b).wf = true := by
  induction m with
  | nil =>
    simp only [Memory.write]
    split
    · rfl
    · next hb => exact (Memory.wf_cons a b []).2 ⟨by simp, hb, rfl⟩
  | cons c m ih =>
    obtain ⟨k, v⟩ := c
    obtain ⟨hk, hv, hm⟩ := (Memory.wf_cons k v m).1 h
    simp only [Memory.write]
    split
    · next hlt =>
      split
      · exact h
      · next hb =>
        refine (Memory.wf_cons a b _).2 ⟨?_, hb, h⟩
        intro cell hc
        rcases List.mem_cons.1 hc with hc | hc
        · subst hc; exact hlt
        · exact Nat.lt_trans hlt (hk cell hc)
    · split
      · next heq =>
        subst heq
        split
        · exact hm
        · next hb => exact (Memory.wf_cons a b m).2 ⟨hk, hb, hm⟩
      · next hlt hne =>
        refine (Memory.wf_cons k v _).2 ⟨?_, hv, ih hm⟩
        intro cell hc
        rcases Memory.mem_write m a b cell hc with hc | hc
        · exact hk cell hc
        · subst hc; show k < a; omega

/-- Read after write (rule R18), for a buffer in canonical form. -/
theorem Memory.read_write (m : Memory) (a : Nat) (b : Byte) (a' : Nat) (h : m.wf = true) :
    (m.write a b).read a' = if a' = a then b else m.read a' := by
  induction m with
  | nil =>
    simp only [Memory.write]
    split
    · next hb => simp [hb]
    · rw [Memory.read_cons]; simp [eq_comm]
  | cons c m ih =>
    obtain ⟨k, v⟩ := c
    obtain ⟨hk, hv, hm⟩ := (Memory.wf_cons k v m).1 h
    simp only [Memory.write]
    split
    · next hlt =>
      split
      · next hb =>
        split
        · next he =>
          rw [he, hb]
          refine Memory.read_of_lt _ a fun cell hc => ?_
          rcases List.mem_cons.1 hc with hc | hc
          · subst hc; exact hlt
          · exact Nat.lt_trans hlt (hk cell hc)
        · rfl
      · rw [Memory.read_cons]; simp [eq_comm]
    · split
      · next hlt heq =>
        subst heq
        split
        · next hb =>
          rw [Memory.read_cons]
          split
          · next he => rw [he, hb]; exact Memory.read_of_lt m a hk
          · next he => rw [if_neg (fun h => he h.symm)]
        · rw [Memory.read_cons, Memory.read_cons]
          by_cases he : a = a'
          · simp [he]
          · simp [he, Ne.symm he]
      · next hlt hne =>
        rw [Memory.read_cons, Memory.read_cons, ih hm]
        by_cases h1 : k = a'
        · rw [if_pos h1, if_pos h1, if_neg (by omega)]
        · rw [if_neg h1, if_neg h1]

/-- The cells of a buffer made from bytes lie where the bytes are. -/
theorem Memory.mem_ofBytesFrom (a : Nat) (f : List Byte) (cell : Host.Cell) (h : cell ∈ Memory.ofBytesFrom a f) :
    a ≤ cell.1 ∧ cell.1 < a + f.length := by
  induction f generalizing a with
  | nil => simp [Memory.ofBytesFrom] at h
  | cons b f ih =>
    simp only [Memory.ofBytesFrom] at h
    split at h
    · have := ih _ h
      simp only [List.length_cons]; omega
    · rcases List.mem_cons.1 h with h | h
      · subst h; simp
      · have := ih _ h
        simp only [List.length_cons]; omega

theorem Memory.wf_ofBytesFrom (a : Nat) (f : List Byte) : (Memory.ofBytesFrom a f).wf = true := by
  induction f generalizing a with
  | nil => rfl
  | cons b f ih =>
    simp only [Memory.ofBytesFrom]
    split
    · exact ih _
    · next hb =>
      refine (Memory.wf_cons a b _).2 ⟨fun cell hc => ?_, hb, ih _⟩
      have := Memory.mem_ofBytesFrom _ _ _ hc
      omega

/-- A buffer made from bytes is in canonical form. -/
theorem Memory.wf_ofBytes (f : List Byte) : (Memory.ofBytes f).wf = true := Memory.wf_ofBytesFrom 0 f

theorem Memory.read_ofBytesFrom (a : Nat) (f : List Byte) (a' : Nat) :
    (Memory.ofBytesFrom a f).read a' = if a ≤ a' then f.getD (a' - a) 0 else 0 := by
  induction f generalizing a with
  | nil => simp [Memory.ofBytesFrom]
  | cons b f ih =>
    simp only [Memory.ofBytesFrom]
    by_cases he : a = a'
    · subst he
      split
      · next hb => rw [ih, if_neg (by omega), if_pos (Nat.le_refl _)]; simp [hb]
      · simp [Memory.read_cons]
    · have hstep : (Memory.ofBytesFrom (a + 1) f).read a' = if a ≤ a' then (b :: f).getD (a' - a) 0 else 0 := by
        rw [ih]
        by_cases hle : a ≤ a'
        · have h1 : a' - a = (a' - (a + 1)) + 1 := by omega
          rw [if_pos (by omega), if_pos hle, h1]; simp
        · rw [if_neg (by omega), if_neg hle]
      split
      · exact hstep
      · rw [Memory.read_cons, if_neg he]; exact hstep

/-- The buffer loaded from a frame reads the frame's bytes (rule R192, `tx_buf <- f`). -/
theorem Memory.read_ofBytes (f : List Byte) (a : Nat) : (Memory.ofBytes f).read a = f.getD a 0 := by
  simp [Memory.ofBytes, Memory.read_ofBytesFrom]

/-- The bits of a buffer loaded from a frame are the frame's bits. -/
theorem Memory.bit_ofBytes (f : List Byte) (o : Nat) : (Memory.ofBytes f).bit o = frameBit f o := by
  simp [Memory.bit, frameBit, Memory.read_ofBytes]

@[simp] theorem Memory.bytes_length (m : Memory) (n : Nat) : (m.bytes n).length = n := by
  simp [Memory.bytes]

/-- `MemRead(0, n)` byte by byte (rule R18). -/
theorem Memory.getElem?_bytes (m : Memory) (n a : Nat) : (m.bytes n)[a]? = if a < n then some (m.read a) else none := by
  simp only [Memory.bytes, List.getElem?_map]
  split <;> simp_all

/-- Bits of a byte after one of them was replaced (rule R18, `BitWrite`). -/
theorem getLsbD_setBit (b : Byte) (k : Nat) (d : Bool) (j : Nat) (hk : k < 8) (hj : j < 8) :
    (setBit b k d).getLsbD j = if j = k then d else b.getLsbD j := by
  unfold setBit
  by_cases h : j = k
  · subst h; cases d <;> simp [hj]
  · cases d <;> simp [hj, h]

theorem byteOf_bitOf (o o' : Nat) : o' = o ↔ byteOf o' = byteOf o ∧ bitOf o' = bitOf o := by
  unfold byteOf bitOf; omega

theorem bitOf_lt (o : Nat) : bitOf o < 8 := Nat.mod_lt _ (by omega)

/-- `BitRead` after `BitWrite`: the written bit, and every other bit as before (rules R18, R77). -/
theorem Memory.bit_setBitAt (m : Memory) (o : Nat) (d : Bool) (o' : Nat) (h : m.wf = true) :
    (m.setBitAt o d).bit o' = if o' = o then d else m.bit o' := by
  unfold Memory.bit Memory.setBitAt
  rw [Memory.read_write _ _ _ _ h]
  by_cases hb : byteOf o' = byteOf o
  · rw [if_pos hb, getLsbD_setBit _ _ _ _ (bitOf_lt o) (bitOf_lt o'), hb]
    by_cases hk : bitOf o' = bitOf o
    · rw [if_pos hk, if_pos ((byteOf_bitOf o o').2 ⟨hb, hk⟩)]
    · rw [if_neg hk, if_neg fun he => hk ((byteOf_bitOf o o').1 he).2]
  · rw [if_neg hb, if_neg fun he => hb ((byteOf_bitOf o o').1 he).1]

/-- The sampler's write keeps the canonical form. -/
theorem Memory.wf_setBitAt (m : Memory) (o : Nat) (d : Bool) (h : m.wf = true) : (m.setBitAt o d).wf = true :=
  Memory.wf_write _ _ _ h

end Sys2Proof.Machine
end

