-- ==== Sys2Proof/Laws/Operands.lean ====
section
/-! SUPPORT. Laws/Operands.lean: one lemma per operand form: byte order, the codec's fields, the frames it builds. -/

namespace Sys2Proof.Machine

@[simp] theorem zeros_length (n : Nat) : (zeros n).length = n := by simp [zeros]

theorem getD_zeros (n j : Nat) : (zeros n).getD j 0 = 0 := by
  simp only [zeros, List.getD_eq_getElem?_getD, List.getElem?_replicate]
  split <;> rfl

@[simp] theorem leBytes_length (n v : Nat) : (leBytes n v).length = n := by
  induction n generalizing v with
  | zero => rfl
  | succ n ih => simp [leBytes, ih]

/-- Byte `j` of `le_bytes_n(v)` (rule R17). -/
theorem getElem?_leBytes (n v j : Nat) :
    (leBytes n v)[j]? = if j < n then some (BitVec.ofNat 8 (v / 256 ^ j)) else none := by
  induction n generalizing v j with
  | zero => simp [leBytes]
  | succ n ih =>
    cases j with
    | zero => simp [leBytes]
    | succ j =>
      simp only [leBytes, List.getElem?_cons_succ, ih, Nat.div_div_eq_div_mul]
      have : 256 * 256 ^ j = 256 ^ (j + 1) := by rw [Nat.pow_succ, Nat.mul_comm]
      rw [this]
      by_cases h : j < n
      · rw [if_pos h, if_pos (by omega)]
      · rw [if_neg h, if_neg (by omega)]

theorem leNat_lt (bs : List Byte) : leNat bs < 256 ^ bs.length := by
  induction bs with
  | nil => simp [leNat]
  | cons b bs ih =>
    have hb := b.isLt
    simp only [leNat, List.length_cons, Nat.pow_succ]
    omega

/-- The bytes of a number, read back (rule R17). -/
theorem leNat_leBytes (n v : Nat) : leNat (leBytes n v) = v % 256 ^ n := by
  induction n generalizing v with
  | zero => simp [leBytes, leNat, Nat.mod_one]
  | succ n ih =>
    have h8 : (2 : Nat) ^ 8 = 256 := rfl
    rw [leBytes, leNat, ih, BitVec.toNat_ofNat, h8, Nat.pow_succ, Nat.mul_comm (256 ^ n) 256, Nat.mod_mul]

/-- A number's bytes determine the bytes: the reading and the writing of a field agree (rule R72). -/
theorem leBytes_leNat (bs : List Byte) : leBytes bs.length (leNat bs) = bs := by
  induction bs with
  | nil => rfl
  | cons b bs ih =>
    have hb : b.toNat < 256 := b.isLt
    have h1 : (b.toNat + 256 * leNat bs) / 256 = leNat bs := by omega
    have h2 : BitVec.ofNat 8 (b.toNat + 256 * leNat bs) = b := by
      apply BitVec.eq_of_toNat_eq
      rw [BitVec.toNat_ofNat]
      omega
    simp only [leNat, List.length_cons, leBytes, h1, h2, ih]

/-- A field of a frame that was written from a word of its size reads back as that word (rules R17, R72). -/
theorem ofNat_leNat_leBytes (n w : Nat) (v : BitVec w) (h : 2 ^ w ≤ 256 ^ n) :
    BitVec.ofNat w (leNat (leBytes n v.toNat)) = v := by
  apply BitVec.eq_of_toNat_eq
  have hv := v.isLt
  rw [leNat_leBytes, BitVec.toNat_ofNat, Nat.mod_eq_of_lt (Nat.lt_of_lt_of_le hv h), Nat.mod_eq_of_lt hv]

/-- Rule R133: a path field has `PATH_LEN` bytes. -/
theorem pathField_length (c : Params) (p : List Byte) (h : 1 ≤ c.path_len) : (pathField c p).length = c.path_len := by
  unfold pathField
  split
  · simp only [List.length_append, zeros_length]; omega
  · simp only [List.length_append, List.length_take, zeros_length]; omega

/-- Rule R137: a value field has 8 bytes. -/
theorem valField_length (k : Byte) (v : BitVec 64) : (valField k v).length = 8 := by
  unfold valField
  split
  · simp
  · split <;> simp

theorem assembleFrame_length (rid : Address) (k : Byte) (path val : List Byte) :
    (assembleFrame rid k path val).length = 3 + path.length + val.length := by
  simp [assembleFrame]; omega

/-- Rule R139: `ENCODE_DATA` produces exactly `NB` bytes. -/
theorem encodeDataFrame_length (c : Params) (k : Byte) (p : List Byte) (v : BitVec 64) (h : 1 ≤ c.path_len) :
    (encodeDataFrame c k p v).length = c.NB := by
  rw [encodeDataFrame, assembleFrame_length, pathField_length c p h, valField_length, Params.NB]; omega

/-- Rule R139: `ENCODE_REQUEST` produces exactly `NB` bytes. -/
theorem encodeRequestFrame_length (c : Params) (t : Address) : (encodeRequestFrame c t).length = c.NB := by
  rw [encodeRequestFrame, assembleFrame_length, zeros_length, zeros_length, Params.NB]; omega

/-- Byte `j` of a path field (rule R133): the path, cut after `PATH_LEN - 1` bytes, then zeros. -/
theorem getD_pathField (c : Params) (p : List Byte) (j : Nat) :
    (pathField c p).getD j 0 = if j < c.path_len - 1 then p.getD j 0 else 0 := by
  unfold pathField
  split
  · next h =>
    simp only [List.getD_eq_getElem?_getD, List.getElem?_append, zeros, List.getElem?_replicate]
    by_cases hj : j < p.length
    · rw [if_pos hj, if_pos (by omega)]
    · rw [if_neg hj, List.getElem?_eq_none (by omega)]
      split <;> split <;> rfl
  · next h =>
    simp only [List.getD_eq_getElem?_getD, List.getElem?_append, zeros, List.getElem?_replicate, List.length_take,
      List.getElem?_take]
    by_cases hj : j < c.path_len - 1
    · rw [if_pos (by omega), if_pos hj, if_pos hj]
    · rw [if_neg (by omega), if_neg hj]
      split <;> rfl

/-- The number of a sequence of bytes gives its first bytes back. -/
theorem leBytes_leNat_append (a b : List Byte) : leBytes a.length (leNat (a ++ b)) = a := by
  induction a with
  | nil => rfl
  | cons x xs ih =>
    have hx := x.isLt
    rw [List.cons_append, leNat, List.length_cons, leBytes]
    have h1 : BitVec.ofNat 8 (x.toNat + 256 * leNat (xs ++ b)) = x := by
      apply BitVec.eq_of_toNat_eq
      rw [BitVec.toNat_ofNat]
      omega
    have h2 : (x.toNat + 256 * leNat (xs ++ b)) / 256 = leNat (xs ++ b) := by omega
    rw [h1, h2, ih]

/-- The field of the path a path field denotes is that field (rules R106, R133, R136). -/
theorem pathField_pathText (c : Params) (p : List Byte) (hc : 1 ≤ c.path_len) (hp : noZeroByte p = true) :
    pathField c (pathText (pathField c p)) = pathField c p := by
  have text : ∀ (q : List Byte) (n : Nat), (∀ b ∈ q, b ≠ 0) → pathText (q ++ zeros n) = q := by
    intro q n hq
    induction q with
    | nil => cases n <;> simp [pathText, zeros, List.replicate_succ]
    | cons b bs ih =>
      have hb : b ≠ 0 := hq b List.mem_cons_self
      have hi := ih fun x hx => hq x (List.mem_cons_of_mem _ hx)
      unfold pathText at hi ⊢
      rw [List.cons_append, List.takeWhile_cons_of_pos (by simpa using hb), hi]
  have hz : ∀ b ∈ p, b ≠ 0 := by simpa [noZeroByte] using hp
  by_cases h : p.length ≤ c.path_len - 1
  · have hf : pathField c p = p ++ zeros (c.path_len - p.length) := if_pos h
    rw [hf, text p _ hz, hf]
  · have hf : pathField c p = p.take (c.path_len - 1) ++ zeros 1 := if_neg h
    have hl : (p.take (c.path_len - 1)).length = c.path_len - 1 := by rw [List.length_take]; omega
    rw [hf, text _ _ fun b hb => hz b (List.mem_of_mem_take hb), pathField, if_pos (by omega), hl,
      show c.path_len - (c.path_len - 1) = 1 by omega]

/-- The field of the value a value field denotes is that field (rules R104, R137). -/
theorem valField_leNat (k : Byte) (v : BitVec 64) (h : isValueKind k = true) :
    valField k (BitVec.ofNat 64 (leNat (valField k v))) = valField k v := by
  have hlt : leNat (valField k v) < 2 ^ 64 := by
    have := leNat_lt (valField k v)
    rw [valField_length] at this
    exact this
  have hn : (BitVec.ofNat 64 (leNat (valField k v))).toNat = leNat (valField k v) := by
    rw [BitVec.toNat_ofNat, Nat.mod_eq_of_lt hlt]
  by_cases h2 : k = 2
  · subst h2
    have hf : ∀ u : BitVec 64, valField 2 u = leBytes 4 u.toNat ++ zeros 4 := fun u => if_pos rfl
    rw [hf (BitVec.ofNat 64 _), hn, hf v]
    have := leBytes_leNat_append (leBytes 4 v.toNat) (zeros 4)
    rw [leBytes_length] at this
    rw [this]
  · have hk : k = 3 ∨ k = 4 ∨ k = 5 := by
      simp only [isValueKind, Bool.or_eq_true, beq_iff_eq, or_assoc] at h
      exact h.resolve_left h2
    have hf : ∀ u : BitVec 64, valField k u = leBytes 8 u.toNat := fun u => by rw [valField, if_neg h2, if_pos hk]
    rw [hf (BitVec.ofNat 64 _), hn, hf v]
    have := leBytes_leNat (leBytes 8 v.toNat)
    rw [leBytes_length] at this
    exact this

/-- The four fields of an assembled frame (rule R90). -/
theorem frameRecipient_assembleFrame (rid : Address) (k : Byte) (path val : List Byte) :
    frameRecipient (assembleFrame rid k path val) = rid := by
  have h := rid.isLt
  apply BitVec.eq_of_toNat_eq
  simp only [frameRecipient, assembleFrame, leBytes, le16, List.cons_append, List.nil_append, List.getD_cons_zero,
    List.getD_cons_succ, BitVec.toNat_ofNat]
  omega

theorem frameKindByte_assembleFrame (rid : Address) (k : Byte) (path val : List Byte) :
    frameKindByte (assembleFrame rid k path val) = k := by
  simp [frameKindByte, assembleFrame, leBytes]

theorem framePathField_assembleFrame (c : Params) (rid : Address) (k : Byte) (path val : List Byte)
    (h : path.length = c.path_len) : framePathField c (assembleFrame rid k path val) = path := by
  simp [framePathField, assembleFrame, leBytes, ← h]

theorem frameValueField_assembleFrame (c : Params) (rid : Address) (k : Byte) (path val : List Byte)
    (h : path.length = c.path_len) (hv : val.length = 8) :
    frameValueField c (assembleFrame rid k path val) = val := by
  have h3 : 3 + c.path_len = path.length + 1 + 1 + 1 := by omega
  have ht : val.take 8 = val := List.take_of_length_le (by omega)
  simp only [frameValueField, assembleFrame, leBytes, List.cons_append, List.nil_append, h3, List.drop_succ_cons,
    List.drop_left, ht]

/-- The frames `TX_BEGIN` is given are exactly those the two encoders build (rule R192). -/
theorem builtByCodec_iff (c : Params) (f : Frame) (hc : 1 ≤ c.path_len) :
    builtByCodec c f = true ↔ (∃ t, f = encodeRequestFrame c t) ∨
      ∃ k p v, isValueKind k = true ∧ noZeroByte p = true ∧ f = encodeDataFrame c k p v := by
  unfold builtByCodec
  simp only [Bool.or_eq_true, Bool.and_eq_true, beq_iff_eq]
  constructor
  · rintro (h | ⟨hk, h⟩)
    · exact .inl ⟨_, h⟩
    · refine .inr ⟨_, _, _, hk, ?_, h⟩
      rw [noZeroByte, pathText]
      exact List.all_takeWhile
  · rintro (⟨t, rfl⟩ | ⟨k, p, v, hk, hp, rfl⟩)
    · left
      rw [show frameRecipient (encodeRequestFrame c t) = t from frameRecipient_assembleFrame _ _ _ _]
    · right
      have hl := pathField_length c p hc
      simp only [encodeDataFrame, frameKindByte_assembleFrame, framePathField_assembleFrame c 0 k _ _ hl,
        frameValueField_assembleFrame c 0 k _ _ hl (valField_length k v)]
      exact ⟨hk, by rw [pathField_pathText c p hc hp, valField_leNat k v hk]⟩

/-- Every request frame is built by the codec, whatever the layout. -/
theorem builtByCodec_request (c : Params) (t : Address) : builtByCodec c (encodeRequestFrame c t) = true := by
  have h : frameRecipient (encodeRequestFrame c t) = t := frameRecipient_assembleFrame _ _ _ _
  rw [builtByCodec, h]
  simp

/-- `DECODE` of an assembled frame gives its four fields back (rule R136). -/
theorem decodeView_assembleFrame (c : Params) (rid : Address) (k : Byte) (path val : List Byte)
    (h : path.length = c.path_len) (hv : val.length = 8) :
    decodeView c (assembleFrame rid k path val) =
      { recipient_id := rid, kind := kindOf k, path := pathText path, value := valueOf (kindOf k) val } := by
  simp only [decodeView, frameRecipient_assembleFrame, frameKindByte_assembleFrame,
    framePathField_assembleFrame c rid k path val h, frameValueField_assembleFrame c rid k path val h hv]

end Sys2Proof.Machine
end

