-- ==== Sys2Proof/Laws/State.lean ====
section
/-! SUPPORT. Laws/State.lean: one lemma per field per update, true by rfl, so that no proof unfolds a record update. -/

namespace Sys2Proof.Machine

/-! `State.setDev` -/

@[simp] theorem State.setDev_cfg (s : State) (x : Nat) (v : Device) : (s.setDev x v).cfg = s.cfg := rfl
@[simp] theorem State.setDev_devs (s : State) (x : Nat) (v : Device) : (s.setDev x v).devs = s.devs.set x v := rfl
@[simp] theorem State.setDev_line_strobe (s : State) (x : Nat) (v : Device) : (s.setDev x v).line_strobe = s.line_strobe := rfl
@[simp] theorem State.setDev_line_data (s : State) (x : Nat) (v : Device) : (s.setDev x v).line_data = s.line_data := rfl
@[simp] theorem State.setDev_now (s : State) (x : Nat) (v : Device) : (s.setDev x v).now = s.now := rfl
@[simp] theorem State.setDev_strobe_prev (s : State) (x : Nat) (v : Device) : (s.setDev x v).strobe_prev = s.strobe_prev := rfl
@[simp] theorem State.setDev_free_count (s : State) (x : Nat) (v : Device) : (s.setDev x v).free_count = s.free_count := rfl
@[simp] theorem State.setDev_reports (s : State) (x : Nat) (v : Device) : (s.setDev x v).reports = s.reports := rfl
@[simp] theorem State.setDev_sched (s : State) (x : Nat) (v : Device) : (s.setDev x v).sched = s.sched := rfl

/-! `State.report` -/

@[simp] theorem State.report_cfg (s : State) (r : Report) : (s.report r).cfg = s.cfg := rfl
@[simp] theorem State.report_devs (s : State) (r : Report) : (s.report r).devs = s.devs := rfl
@[simp] theorem State.report_line_strobe (s : State) (r : Report) : (s.report r).line_strobe = s.line_strobe := rfl
@[simp] theorem State.report_line_data (s : State) (r : Report) : (s.report r).line_data = s.line_data := rfl
@[simp] theorem State.report_now (s : State) (r : Report) : (s.report r).now = s.now := rfl
@[simp] theorem State.report_strobe_prev (s : State) (r : Report) : (s.report r).strobe_prev = s.strobe_prev := rfl
@[simp] theorem State.report_free_count (s : State) (r : Report) : (s.report r).free_count = s.free_count := rfl
@[simp] theorem State.report_reports (s : State) (r : Report) : (s.report r).reports = r :: s.reports := rfl
@[simp] theorem State.report_sched (s : State) (r : Report) : (s.report r).sched = s.sched := rfl

/-! `afterFetch` -/

@[simp] theorem afterFetch_cfg (s : State) : (afterFetch s).cfg = s.cfg := rfl
@[simp] theorem afterFetch_devs (s : State) : (afterFetch s).devs = s.devs := rfl
@[simp] theorem afterFetch_line_strobe (s : State) : (afterFetch s).line_strobe = s.line_strobe := rfl
@[simp] theorem afterFetch_line_data (s : State) : (afterFetch s).line_data = s.line_data := rfl
@[simp] theorem afterFetch_now (s : State) : (afterFetch s).now = s.now := rfl
@[simp] theorem afterFetch_strobe_prev (s : State) : (afterFetch s).strobe_prev = s.strobe_prev := rfl
@[simp] theorem afterFetch_free_count (s : State) : (afterFetch s).free_count = s.free_count := rfl
@[simp] theorem afterFetch_reports (s : State) : (afterFetch s).reports = s.reports := rfl
@[simp] theorem afterFetch_sched (s : State) : (afterFetch s).sched = (chooseTurn s).2 := rfl

/-! `driveLines` -/

@[simp] theorem driveLines_cfg (s : State) (strobe data : Bool) : (driveLines s strobe data).cfg = s.cfg := rfl
@[simp] theorem driveLines_devs (s : State) (strobe data : Bool) : (driveLines s strobe data).devs = if !s.line_strobe && strobe then s.devs.map (deliverEdge data) else s.devs := rfl
@[simp] theorem driveLines_line_strobe (s : State) (strobe data : Bool) : (driveLines s strobe data).line_strobe = strobe := rfl
@[simp] theorem driveLines_line_data (s : State) (strobe data : Bool) : (driveLines s strobe data).line_data = data := rfl
@[simp] theorem driveLines_now (s : State) (strobe data : Bool) : (driveLines s strobe data).now = s.now := rfl
@[simp] theorem driveLines_strobe_prev (s : State) (strobe data : Bool) : (driveLines s strobe data).strobe_prev = s.line_strobe := rfl
@[simp] theorem driveLines_free_count (s : State) (strobe data : Bool) : (driveLines s strobe data).free_count = s.free_count := rfl
@[simp] theorem driveLines_reports (s : State) (strobe data : Bool) : (driveLines s strobe data).reports = s.reports := rfl
@[simp] theorem driveLines_sched (s : State) (strobe data : Bool) : (driveLines s strobe data).sched = s.sched := rfl

/-! `Device.clearRx` -/

@[simp] theorem Device.clearRx_raw (v : Device) : v.clearRx.raw = [] := rfl
@[simp] theorem Device.clearRx_bit_offset (v : Device) : v.clearRx.bit_offset = 0 := rfl
@[simp] theorem Device.clearRx_own_id (v : Device) : v.clearRx.own_id = v.own_id := rfl
@[simp] theorem Device.clearRx_configured (v : Device) : v.clearRx.configured = v.configured := rfl
@[simp] theorem Device.clearRx_rx_enable (v : Device) : v.clearRx.rx_enable = v.rx_enable := rfl
@[simp] theorem Device.clearRx_mode (v : Device) : v.clearRx.mode = v.mode := rfl
@[simp] theorem Device.clearRx_pin_dir (v : Device) : v.clearRx.pin_dir = v.pin_dir := rfl
@[simp] theorem Device.clearRx_strobe_out (v : Device) : v.clearRx.strobe_out = v.strobe_out := rfl
@[simp] theorem Device.clearRx_data_out (v : Device) : v.clearRx.data_out = v.data_out := rfl
@[simp] theorem Device.clearRx_tx_buf (v : Device) : v.clearRx.tx_buf = v.tx_buf := rfl
@[simp] theorem Device.clearRx_tx_index (v : Device) : v.clearRx.tx_index = v.tx_index := rfl
@[simp] theorem Device.clearRx_tx_phase (v : Device) : v.clearRx.tx_phase = v.tx_phase := rfl
@[simp] theorem Device.clearRx_tx_wait (v : Device) : v.clearRx.tx_wait = v.tx_wait := rfl
@[simp] theorem Device.clearRx_queue (v : Device) : v.clearRx.queue = v.queue := rfl
@[simp] theorem Device.clearRx_q_overflow (v : Device) : v.clearRx.q_overflow = v.q_overflow := rfl
@[simp] theorem Device.clearRx_idle_ticks (v : Device) : v.clearRx.idle_ticks = 0 := rfl
@[simp] theorem Device.clearRx_edge_pending (v : Device) : v.clearRx.edge_pending = v.edge_pending := rfl
@[simp] theorem Device.clearRx_reasm_wait (v : Device) : v.clearRx.reasm_wait = v.reasm_wait := rfl
@[simp] theorem Device.clearRx_params (v : Device) : v.clearRx.params = v.params := rfl

/-! `Device.enterTransmit` -/

@[simp] theorem Device.enterTransmit_raw (v : Device) (f : Frame) : (v.enterTransmit f).raw = [] := rfl
@[simp] theorem Device.enterTransmit_bit_offset (v : Device) (f : Frame) : (v.enterTransmit f).bit_offset = 0 := rfl
@[simp] theorem Device.enterTransmit_own_id (v : Device) (f : Frame) : (v.enterTransmit f).own_id = v.own_id := rfl
@[simp] theorem Device.enterTransmit_configured (v : Device) (f : Frame) : (v.enterTransmit f).configured = v.configured := rfl
@[simp] theorem Device.enterTransmit_rx_enable (v : Device) (f : Frame) : (v.enterTransmit f).rx_enable = false := rfl
@[simp] theorem Device.enterTransmit_mode (v : Device) (f : Frame) : (v.enterTransmit f).mode = .transmitting := rfl
@[simp] theorem Device.enterTransmit_pin_dir (v : Device) (f : Frame) : (v.enterTransmit f).pin_dir = .output := rfl
@[simp] theorem Device.enterTransmit_strobe_out (v : Device) (f : Frame) : (v.enterTransmit f).strobe_out = false := rfl
@[simp] theorem Device.enterTransmit_data_out (v : Device) (f : Frame) : (v.enterTransmit f).data_out = false := rfl
@[simp] theorem Device.enterTransmit_tx_buf (v : Device) (f : Frame) : (v.enterTransmit f).tx_buf = Memory.ofBytes f := rfl
@[simp] theorem Device.enterTransmit_tx_index (v : Device) (f : Frame) : (v.enterTransmit f).tx_index = 0 := rfl
@[simp] theorem Device.enterTransmit_tx_phase (v : Device) (f : Frame) : (v.enterTransmit f).tx_phase = .load := rfl
@[simp] theorem Device.enterTransmit_tx_wait (v : Device) (f : Frame) : (v.enterTransmit f).tx_wait = 0 := rfl
@[simp] theorem Device.enterTransmit_queue (v : Device) (f : Frame) : (v.enterTransmit f).queue = v.queue := rfl
@[simp] theorem Device.enterTransmit_q_overflow (v : Device) (f : Frame) : (v.enterTransmit f).q_overflow = v.q_overflow := rfl
@[simp] theorem Device.enterTransmit_idle_ticks (v : Device) (f : Frame) : (v.enterTransmit f).idle_ticks = 0 := rfl
@[simp] theorem Device.enterTransmit_edge_pending (v : Device) (f : Frame) : (v.enterTransmit f).edge_pending = v.edge_pending := rfl
@[simp] theorem Device.enterTransmit_reasm_wait (v : Device) (f : Frame) : (v.enterTransmit f).reasm_wait = v.reasm_wait := rfl
@[simp] theorem Device.enterTransmit_params (v : Device) (f : Frame) : (v.enterTransmit f).params = v.params := rfl

/-! `Device.pushFrame` -/

@[simp] theorem Device.pushFrame_raw (v : Device) (f : Frame) : (v.pushFrame f).raw = v.raw := rfl
@[simp] theorem Device.pushFrame_bit_offset (v : Device) (f : Frame) : (v.pushFrame f).bit_offset = v.bit_offset := rfl
@[simp] theorem Device.pushFrame_own_id (v : Device) (f : Frame) : (v.pushFrame f).own_id = v.own_id := rfl
@[simp] theorem Device.pushFrame_configured (v : Device) (f : Frame) : (v.pushFrame f).configured = v.configured := rfl
@[simp] theorem Device.pushFrame_rx_enable (v : Device) (f : Frame) : (v.pushFrame f).rx_enable = v.rx_enable := rfl
@[simp] theorem Device.pushFrame_mode (v : Device) (f : Frame) : (v.pushFrame f).mode = v.mode := rfl
@[simp] theorem Device.pushFrame_pin_dir (v : Device) (f : Frame) : (v.pushFrame f).pin_dir = v.pin_dir := rfl
@[simp] theorem Device.pushFrame_strobe_out (v : Device) (f : Frame) : (v.pushFrame f).strobe_out = v.strobe_out := rfl
@[simp] theorem Device.pushFrame_data_out (v : Device) (f : Frame) : (v.pushFrame f).data_out = v.data_out := rfl
@[simp] theorem Device.pushFrame_tx_buf (v : Device) (f : Frame) : (v.pushFrame f).tx_buf = v.tx_buf := rfl
@[simp] theorem Device.pushFrame_tx_index (v : Device) (f : Frame) : (v.pushFrame f).tx_index = v.tx_index := rfl
@[simp] theorem Device.pushFrame_tx_phase (v : Device) (f : Frame) : (v.pushFrame f).tx_phase = v.tx_phase := rfl
@[simp] theorem Device.pushFrame_tx_wait (v : Device) (f : Frame) : (v.pushFrame f).tx_wait = v.tx_wait := rfl
@[simp] theorem Device.pushFrame_queue (v : Device) (f : Frame) : (v.pushFrame f).queue = v.queue ++ [f] := rfl
@[simp] theorem Device.pushFrame_q_overflow (v : Device) (f : Frame) : (v.pushFrame f).q_overflow = v.q_overflow := rfl
@[simp] theorem Device.pushFrame_idle_ticks (v : Device) (f : Frame) : (v.pushFrame f).idle_ticks = v.idle_ticks := rfl
@[simp] theorem Device.pushFrame_edge_pending (v : Device) (f : Frame) : (v.pushFrame f).edge_pending = v.edge_pending := rfl
@[simp] theorem Device.pushFrame_reasm_wait (v : Device) (f : Frame) : (v.pushFrame f).reasm_wait = v.reasm_wait := rfl
@[simp] theorem Device.pushFrame_params (v : Device) (f : Frame) : (v.pushFrame f).params = v.params := rfl

/-! `Device.reasmDone` -/

@[simp] theorem Device.reasmDone_raw (v : Device) : v.reasmDone.raw = v.raw := rfl
@[simp] theorem Device.reasmDone_bit_offset (v : Device) : v.reasmDone.bit_offset = v.bit_offset := rfl
@[simp] theorem Device.reasmDone_own_id (v : Device) : v.reasmDone.own_id = v.own_id := rfl
@[simp] theorem Device.reasmDone_configured (v : Device) : v.reasmDone.configured = v.configured := rfl
@[simp] theorem Device.reasmDone_rx_enable (v : Device) : v.reasmDone.rx_enable = v.rx_enable := rfl
@[simp] theorem Device.reasmDone_mode (v : Device) : v.reasmDone.mode = v.mode := rfl
@[simp] theorem Device.reasmDone_pin_dir (v : Device) : v.reasmDone.pin_dir = v.pin_dir := rfl
@[simp] theorem Device.reasmDone_strobe_out (v : Device) : v.reasmDone.strobe_out = v.strobe_out := rfl
@[simp] theorem Device.reasmDone_data_out (v : Device) : v.reasmDone.data_out = v.data_out := rfl
@[simp] theorem Device.reasmDone_tx_buf (v : Device) : v.reasmDone.tx_buf = v.tx_buf := rfl
@[simp] theorem Device.reasmDone_tx_index (v : Device) : v.reasmDone.tx_index = v.tx_index := rfl
@[simp] theorem Device.reasmDone_tx_phase (v : Device) : v.reasmDone.tx_phase = v.tx_phase := rfl
@[simp] theorem Device.reasmDone_tx_wait (v : Device) : v.reasmDone.tx_wait = v.tx_wait := rfl
@[simp] theorem Device.reasmDone_queue (v : Device) : v.reasmDone.queue = v.queue := rfl
@[simp] theorem Device.reasmDone_q_overflow (v : Device) : v.reasmDone.q_overflow = v.q_overflow := rfl
@[simp] theorem Device.reasmDone_idle_ticks (v : Device) : v.reasmDone.idle_ticks = v.idle_ticks := rfl
@[simp] theorem Device.reasmDone_edge_pending (v : Device) : v.reasmDone.edge_pending = v.edge_pending := rfl
@[simp] theorem Device.reasmDone_reasm_wait (v : Device) : v.reasmDone.reasm_wait = 0 := rfl
@[simp] theorem Device.reasmDone_params (v : Device) : v.reasmDone.params = v.params := rfl

/-! `Device.tick` -/

@[simp] theorem Device.tick_raw (v : Device) : v.tick.raw = v.raw := rfl
@[simp] theorem Device.tick_bit_offset (v : Device) : v.tick.bit_offset = v.bit_offset := rfl
@[simp] theorem Device.tick_own_id (v : Device) : v.tick.own_id = v.own_id := rfl
@[simp] theorem Device.tick_configured (v : Device) : v.tick.configured = v.configured := rfl
@[simp] theorem Device.tick_rx_enable (v : Device) : v.tick.rx_enable = v.rx_enable := rfl
@[simp] theorem Device.tick_mode (v : Device) : v.tick.mode = v.mode := rfl
@[simp] theorem Device.tick_pin_dir (v : Device) : v.tick.pin_dir = v.pin_dir := rfl
@[simp] theorem Device.tick_strobe_out (v : Device) : v.tick.strobe_out = v.strobe_out := rfl
@[simp] theorem Device.tick_data_out (v : Device) : v.tick.data_out = v.data_out := rfl
@[simp] theorem Device.tick_tx_buf (v : Device) : v.tick.tx_buf = v.tx_buf := rfl
@[simp] theorem Device.tick_tx_index (v : Device) : v.tick.tx_index = v.tx_index := rfl
@[simp] theorem Device.tick_tx_phase (v : Device) : v.tick.tx_phase = v.tx_phase := rfl
@[simp] theorem Device.tick_tx_wait (v : Device) : v.tick.tx_wait = v.tx_wait - 1 := rfl
@[simp] theorem Device.tick_queue (v : Device) : v.tick.queue = v.queue := rfl
@[simp] theorem Device.tick_q_overflow (v : Device) : v.tick.q_overflow = v.q_overflow := rfl
@[simp] theorem Device.tick_idle_ticks (v : Device) : v.tick.idle_ticks = if v.idle_ticks < v.params.t_abandon then v.idle_ticks + 1 else v.idle_ticks := rfl
@[simp] theorem Device.tick_edge_pending (v : Device) : v.tick.edge_pending = v.edge_pending := rfl
@[simp] theorem Device.tick_reasm_wait (v : Device) : v.tick.reasm_wait = v.reasm_wait + 1 := rfl
@[simp] theorem Device.tick_params (v : Device) : v.tick.params = v.params := rfl

/-! `deliverEdge` changes only `edge_pending`. -/

@[simp] theorem deliverEdge_raw (d : Bool) (v : Device) : (deliverEdge d v).raw = v.raw := by
  unfold deliverEdge; split <;> rfl
@[simp] theorem deliverEdge_bit_offset (d : Bool) (v : Device) : (deliverEdge d v).bit_offset = v.bit_offset := by
  unfold deliverEdge; split <;> rfl
@[simp] theorem deliverEdge_own_id (d : Bool) (v : Device) : (deliverEdge d v).own_id = v.own_id := by
  unfold deliverEdge; split <;> rfl
@[simp] theorem deliverEdge_configured (d : Bool) (v : Device) : (deliverEdge d v).configured = v.configured := by
  unfold deliverEdge; split <;> rfl
@[simp] theorem deliverEdge_rx_enable (d : Bool) (v : Device) : (deliverEdge d v).rx_enable = v.rx_enable := by
  unfold deliverEdge; split <;> rfl
@[simp] theorem deliverEdge_mode (d : Bool) (v : Device) : (deliverEdge d v).mode = v.mode := by
  unfold deliverEdge; split <;> rfl
@[simp] theorem deliverEdge_pin_dir (d : Bool) (v : Device) : (deliverEdge d v).pin_dir = v.pin_dir := by
  unfold deliverEdge; split <;> rfl
@[simp] theorem deliverEdge_strobe_out (d : Bool) (v : Device) : (deliverEdge d v).strobe_out = v.strobe_out := by
  unfold deliverEdge; split <;> rfl
@[simp] theorem deliverEdge_data_out (d : Bool) (v : Device) : (deliverEdge d v).data_out = v.data_out := by
  unfold deliverEdge; split <;> rfl
@[simp] theorem deliverEdge_tx_buf (d : Bool) (v : Device) : (deliverEdge d v).tx_buf = v.tx_buf := by
  unfold deliverEdge; split <;> rfl
@[simp] theorem deliverEdge_tx_index (d : Bool) (v : Device) : (deliverEdge d v).tx_index = v.tx_index := by
  unfold deliverEdge; split <;> rfl
@[simp] theorem deliverEdge_tx_phase (d : Bool) (v : Device) : (deliverEdge d v).tx_phase = v.tx_phase := by
  unfold deliverEdge; split <;> rfl
@[simp] theorem deliverEdge_tx_wait (d : Bool) (v : Device) : (deliverEdge d v).tx_wait = v.tx_wait := by
  unfold deliverEdge; split <;> rfl
@[simp] theorem deliverEdge_queue (d : Bool) (v : Device) : (deliverEdge d v).queue = v.queue := by
  unfold deliverEdge; split <;> rfl
@[simp] theorem deliverEdge_q_overflow (d : Bool) (v : Device) : (deliverEdge d v).q_overflow = v.q_overflow := by
  unfold deliverEdge; split <;> rfl
@[simp] theorem deliverEdge_idle_ticks (d : Bool) (v : Device) : (deliverEdge d v).idle_ticks = v.idle_ticks := by
  unfold deliverEdge; split <;> rfl
@[simp] theorem deliverEdge_reasm_wait (d : Bool) (v : Device) : (deliverEdge d v).reasm_wait = v.reasm_wait := by
  unfold deliverEdge; split <;> rfl
@[simp] theorem deliverEdge_params (d : Bool) (v : Device) : (deliverEdge d v).params = v.params := by
  unfold deliverEdge; split <;> rfl

@[simp] theorem Device.initial_params (p : DeviceParams) : (Device.initial p).params = p := rfl

/-- A listening device gets the edge, a driving device does not (rule R270). -/
theorem deliverEdge_edge_pending (d : Bool) (v : Device) :
    (deliverEdge d v).edge_pending = if v.pin_dir = .input then some d else v.edge_pending := by
  unfold deliverEdge; split <;> rfl

/-! `reportTxAbandon` changes only `reports`. -/

@[simp] theorem reportTxAbandon_cfg (s : State) (x : Nat) (v : Device) : (reportTxAbandon s x v).cfg = s.cfg := by
  unfold reportTxAbandon; split <;> rfl
@[simp] theorem reportTxAbandon_devs (s : State) (x : Nat) (v : Device) : (reportTxAbandon s x v).devs = s.devs := by
  unfold reportTxAbandon; split <;> rfl
@[simp] theorem reportTxAbandon_line_strobe (s : State) (x : Nat) (v : Device) : (reportTxAbandon s x v).line_strobe = s.line_strobe := by
  unfold reportTxAbandon; split <;> rfl
@[simp] theorem reportTxAbandon_line_data (s : State) (x : Nat) (v : Device) : (reportTxAbandon s x v).line_data = s.line_data := by
  unfold reportTxAbandon; split <;> rfl
@[simp] theorem reportTxAbandon_now (s : State) (x : Nat) (v : Device) : (reportTxAbandon s x v).now = s.now := by
  unfold reportTxAbandon; split <;> rfl
@[simp] theorem reportTxAbandon_strobe_prev (s : State) (x : Nat) (v : Device) : (reportTxAbandon s x v).strobe_prev = s.strobe_prev := by
  unfold reportTxAbandon; split <;> rfl
@[simp] theorem reportTxAbandon_free_count (s : State) (x : Nat) (v : Device) : (reportTxAbandon s x v).free_count = s.free_count := by
  unfold reportTxAbandon; split <;> rfl
@[simp] theorem reportTxAbandon_sched (s : State) (x : Nat) (v : Device) : (reportTxAbandon s x v).sched = s.sched := by
  unfold reportTxAbandon; split <;> rfl

/-- The report of `TX_BEGIN`: one drop when a frame was in progress or complete, none otherwise (rule R192). -/
theorem reportTxAbandon_reports (s : State) (x : Nat) (v : Device) :
    (reportTxAbandon s x v).reports = if v.bit_offset = 0 then s.reports else .drop x .txAbandon :: s.reports := by
  unfold reportTxAbandon; split <;> rfl

/-- A device of a state in which device `x` was replaced. -/
theorem State.setDev_getElem? (s : State) (x y : Nat) (v : Device) :
    (s.setDev x v).devs[y]? = if x = y then (if x < s.devs.length then some v else none) else s.devs[y]? := by
  simp [List.getElem?_set]

end Sys2Proof.Machine
end

