-- ==== Sys2Proof/Laws/Ops.lean ====
section
/-! SUPPORT. Laws/Ops.lean: one lemma for each shared operation that says once everything it can do. -/

namespace Sys2Proof.Machine

/-- `onDev` answers a next state exactly when the device exists and its operation does. -/
theorem onDev_eq_next (s t : State) (x : Nat) (k : Device → Out) :
    onDev s x k = .next t ↔ ∃ v, s.devs[x]? = some v ∧ k v = .next t := by
  unfold onDev
  cases s.devs[x]? with
  | none => simp
  | some v => simp

theorem onDev_some (s : State) (x : Nat) (k : Device → Out) (v : Device) (h : s.devs[x]? = some v) :
    onDev s x k = k v := by
  simp [onDev, h]

/-- A guarded result answers a next state exactly when the guard holds. -/
theorem ite_refused_eq_next (p : Prop) [Decidable p] (o : Out) (r : Refusal) (t : State) :
    (if p then o else .refused r) = .next t ↔ p ∧ o = .next t := by
  by_cases h : p <;> simp [h]

theorem ite_refused_left_eq_next (p : Prop) [Decidable p] (o : Out) (r : Refusal) (t : State) :
    (if p then .refused r else o) = .next t ↔ ¬p ∧ o = .next t := by
  by_cases h : p <;> simp [h]

theorem setDev_getElem?_self (s : State) (x : Nat) (v w : Device) (h : s.devs[x]? = some v) :
    (s.setDev x w).devs[x]? = some w := by
  have hx : x < s.devs.length := (List.getElem?_eq_some_iff.1 h).1
  simp [State.setDev, hx]

theorem setDev_getElem?_ne (s : State) (x y : Nat) (w : Device) (h : y ≠ x) :
    (s.setDev x w).devs[y]? = s.devs[y]? := by
  simp [State.setDev, List.getElem?_set_ne (Ne.symm h)]

/-- Every device of a state with one device replaced is the new one or was there. -/
theorem mem_setDev (s : State) (x : Nat) (w u : Device) (h : u ∈ (s.setDev x w).devs) : u = w ∨ u ∈ s.devs :=
  (List.mem_or_eq_of_mem_set h).symm

theorem setDev_self (s : State) (x : Nat) (v : Device) (h : s.devs[x]? = some v) : s.setDev x v = s := by
  obtain ⟨hx, rfl⟩ := List.getElem?_eq_some_iff.1 h
  simp [State.setDev]

/-- What `otherDrives` says: some device other than `x` drives the lines (rule R273). -/
theorem otherDrives_iff (s : State) (x : Nat) :
    otherDrives s x = true ↔ ∃ y w, y ≠ x ∧ s.devs[y]? = some w ∧ w.pin_dir = .output := by
  simp only [otherDrives, List.any_eq_true, List.mem_iff_getElem?, List.getElem?_eraseIdx, beq_iff_eq]
  constructor
  · rintro ⟨w, ⟨i, hi⟩, hw⟩
    by_cases h : i < x
    · rw [if_pos h] at hi; exact ⟨i, w, by omega, hi, hw⟩
    · rw [if_neg h] at hi; exact ⟨i + 1, w, by omega, hi, hw⟩
  · rintro ⟨y, w, hy, hi, hw⟩
    by_cases h : y < x
    · exact ⟨w, ⟨y, by rw [if_pos h]; exact hi⟩, hw⟩
    · refine ⟨w, ⟨y - 1, ?_⟩, hw⟩
      rw [if_neg (by omega), show y - 1 + 1 = y by omega]; exact hi

theorem otherDrives_eq_false (s : State) (x : Nat) :
    otherDrives s x = false ↔ ∀ y w, y ≠ x → s.devs[y]? = some w → w.pin_dir = .input := by
  rw [← Bool.not_eq_true, otherDrives_iff]
  constructor
  · intro h y w hy hw
    cases hp : w.pin_dir with
    | input => rfl
    | output => exact absurd ⟨y, w, hy, hw, hp⟩ h
  · rintro h ⟨y, w, hy, hw, hp⟩
    rw [h y w hy hw] at hp; cases hp

theorem otherDrives_setDev (s : State) (x : Nat) (w : Device) : otherDrives (s.setDev x w) x = otherDrives s x := by
  simp [otherDrives, State.setDev, List.eraseIdx_set_eq]

theorem otherDrives_report (s : State) (x : Nat) (r : Report) : otherDrives (s.report r) x = otherDrives s x := rfl

/-- A list of devices splits at a device it holds; what is left is the list without it. -/
theorem split_at_getElem? (l : List Device) (x : Nat) (v : Device) (h : l[x]? = some v) :
    ∃ a b, l = a ++ v :: b ∧ l.eraseIdx x = a ++ b := by
  obtain ⟨hx, rfl⟩ := List.getElem?_eq_some_iff.1 h
  refine ⟨l.take x, l.drop (x + 1), ?_, List.eraseIdx_eq_take_drop_succ ..⟩
  rw [List.getElem_cons_drop, List.take_append_drop]

/-- With one driver `x`, the drivers are `x` alone. -/
theorem drivers_eq_singleton (s : State) (x : Nat) (v : Device) (h : s.devs[x]? = some v)
    (hv : v.pin_dir = .output) (ho : otherDrives s x = false) : drivers s = [v] := by
  obtain ⟨a, b, hl, he⟩ := split_at_getElem? _ _ _ h
  have hab : ∀ u ∈ a ++ b, ¬ (u.pin_dir == .output) = true := by
    rw [← he]
    intro u hu hp
    rw [otherDrives, List.any_eq_false] at ho
    exact ho u hu hp
  rw [drivers, hl, List.filter_append, List.filter_cons, if_pos (by simp [hv])]
  rw [List.filter_eq_nil_iff.2 (fun u hu => hab u (List.mem_append_left _ hu)),
    List.filter_eq_nil_iff.2 (fun u hu => hab u (List.mem_append_right _ hu))]
  rfl

theorem drivers_eq_nil (s : State) : drivers s = [] ↔ ∀ v ∈ s.devs, v.pin_dir = .input := by
  rw [drivers, List.filter_eq_nil_iff]
  refine forall_congr' fun v => forall_congr' fun _ => ?_
  cases v.pin_dir <;> simp

/-- `LINK_RESOLVE` answers a next state in two ways: nothing drives the lines, or one device does (rules R270, R271). -/
theorem resolveLink_eq_next (s t : State) :
    resolveLink s = .next t ↔
      (drivers s = [] ∧
        t = driveLines { s with free_count := s.free_count + 1 } false (Config.undrivenData s.free_count)) ∨
      ∃ a, drivers s = [a] ∧ t = driveLines s a.strobe_out a.data_out := by
  unfold resolveLink
  split
  · next h => simp [h, eq_comm]
  · next a h => simp [h, eq_comm]
  · next h1 h2 =>
    constructor
    · intro h; cases h
    · rintro (⟨h, -⟩ | ⟨a, h, -⟩)
      · exact absurd h h1
      · exact absurd h (h2 a)

/-- The lines of a link with one driver take that driver's levels (rule R270). -/
theorem resolveLink_of_driver (s : State) (x : Nat) (v : Device) (h : s.devs[x]? = some v)
    (hv : v.pin_dir = .output) (ho : otherDrives s x = false) :
    resolveLink s = .next (driveLines s v.strobe_out v.data_out) :=
  (resolveLink_eq_next _ _).2 (.inr ⟨v, drivers_eq_singleton s x v h hv ho, rfl⟩)

/-- The lines of a link without a driver: the strobe reads 0, the data line a free value (rule R271). -/
theorem resolveLink_of_no_driver (s : State) (h : ∀ v ∈ s.devs, v.pin_dir = .input) :
    resolveLink s =
      .next (driveLines { s with free_count := s.free_count + 1 } false (Config.undrivenData s.free_count)) :=
  (resolveLink_eq_next _ _).2 (.inl ⟨(drivers_eq_nil s).2 h, rfl⟩)

/-- Device `y` after the lines took new levels: it has an edge if the strobe rose and it listens (rule R270). -/
theorem driveLines_getElem? (s : State) (strobe data : Bool) (y : Nat) :
    (driveLines s strobe data).devs[y]? =
      (s.devs[y]?).map (fun w => if !s.line_strobe && strobe then deliverEdge data w else w) := by
  rw [driveLines_devs]
  split
  · rw [List.getElem?_map]
  · simp

/-- Without a rise no device gets an edge. -/
theorem driveLines_devs_of_low (s : State) (data : Bool) : (driveLines s false data).devs = s.devs := by
  simp [driveLines]

/-- Everything `TX_BEGIN` can do (rules R192, R257, R273). -/
theorem beginTransmit_eq_next (s t : State) (x : Nat) (f : Frame) :
    beginTransmit s x f = .next t ↔
      ∃ v, s.devs[x]? = some v ∧ v.configured = true ∧ v.mode = .receiving ∧ v.tx_phase = .off ∧
        otherDrives s x = false ∧ t = driveLines ((reportTxAbandon s x v).setDev x (v.enterTransmit f)) false false := by
  rw [beginTransmit, onDev_eq_next]
  refine exists_congr fun v => and_congr_right fun hv => ?_
  simp only [ite_refused_left_eq_next]
  have hr : otherDrives s x = false → resolveLink ((reportTxAbandon s x v).setDev x (v.enterTransmit f)) =
      .next (driveLines ((reportTxAbandon s x v).setDev x (v.enterTransmit f)) false false) := by
    intro ho
    refine resolveLink_of_driver _ x (v.enterTransmit f) ?_ rfl ?_
    · apply setDev_getElem?_self _ _ v
      unfold reportTxAbandon
      split <;> exact hv
    · rw [otherDrives_setDev]
      unfold reportTxAbandon
      split <;> exact ho
  cases hc : v.configured <;> cases hm : v.mode <;> cases hp : v.tx_phase <;> cases ho : otherDrives s x <;>
    simp [hr, ho, eq_comm]

/-- Everything `REASM_ACCEPT` does to the device (rule R174). -/
theorem acceptFrame_eq (s : State) (x : Nat) (v : Device) :
    acceptFrame s x v =
      if queueHasRoom v = true then
        s.setDev x ((v.pushFrame (v.raw.bytes s.cfg.NB)).clearRx.reasmDone)
      else (s.setDev x { v.clearRx.reasmDone with q_overflow := true }).report (.drop x .queueFull) := rfl

/-- The reading of a frame answers a next state exactly when the device exists and the path field has its length. -/
theorem reportReading_eq_next (s t : State) (x : Nat) (path : List Byte) (w : View) :
    reportReading s x path w = .next t ↔
      (∃ v, s.devs[x]? = some v) ∧ path.length = s.cfg.path_len ∧ t = s.report (.decoded x w) := by
  rw [reportReading, onDev_eq_next]
  constructor
  · rintro ⟨v, hv, h⟩
    rw [ite_refused_eq_next] at h
    obtain ⟨hl, h⟩ := h
    exact ⟨⟨v, hv⟩, hl, by injection h with h; exact h.symm⟩
  · rintro ⟨⟨v, hv⟩, hl, rfl⟩
    exact ⟨v, hv, by rw [if_pos hl]⟩

/-- A `TX_WAIT` row changes nothing (rule R112). -/
theorem waitInPhase_eq_next (s t : State) (x : Nat) (p : TxPhase) :
    waitInPhase x p s = .next t ↔ ∃ v, s.devs[x]? = some v ∧ (v.tx_phase = p ∧ v.tx_wait ≠ 0) ∧ t = s := by
  rw [waitInPhase, onDev_eq_next]
  refine exists_congr fun v => and_congr_right fun _ => ?_
  rw [ite_refused_eq_next]
  refine and_congr_right fun _ => ?_
  simp [eq_comm]

end Sys2Proof.Machine
end

