-- ==== Sys2Proof/Laws/Exec.lean ====
section
/-! SUPPORT. Laws/Exec.lean: for each meaning one lemma that says exactly when it answers a next state, and which. -/

namespace Sys2Proof.Machine

/-- Everything rule R152 can do. -/
theorem execSample_eq_next (x : Nat) (d : Bool) (s t : State) :
    execSample x d s = .next t ↔ ∃ v, s.devs[x]? = some v ∧ (v.edge_pending = some d ∧ v.rx_enable = true ∧ v.bit_offset < s.cfg.N) ∧ 
      t = s.setDev x { v with raw := v.raw.setBitAt v.bit_offset d, bit_offset := v.bit_offset + 1, idle_ticks := 0, edge_pending := none } := by
  rw [execSample, onDev_eq_next]
  refine exists_congr fun v => and_congr_right fun _ => ?_
  rw [ite_refused_eq_next]
  refine and_congr_right fun _ => ?_
  rw [Host.Outcome.next.injEq, eq_comm]

/-- Everything rule R153 can do. -/
theorem execEdgeOverrun_eq_next (x : Nat) (d : Bool) (s t : State) :
    execEdgeOverrun x d s = .next t ↔ ∃ v, s.devs[x]? = some v ∧ (v.edge_pending = some d ∧ v.rx_enable = true ∧ v.bit_offset = s.cfg.N) ∧ 
      t = (s.setDev x { v with idle_ticks := 0, edge_pending := none }).report (.drop x .overrunBit) := by
  rw [execEdgeOverrun, onDev_eq_next]
  refine exists_congr fun v => and_congr_right fun _ => ?_
  rw [ite_refused_eq_next]
  refine and_congr_right fun _ => ?_
  rw [Host.Outcome.next.injEq, eq_comm]

/-- Everything rule R154 can do. -/
theorem execEdgeMasked_eq_next (x : Nat) (d : Bool) (s t : State) :
    execEdgeMasked x d s = .next t ↔ ∃ v, s.devs[x]? = some v ∧ (v.edge_pending = some d ∧ v.rx_enable = false) ∧ 
      t = s.setDev x { v with edge_pending := none } := by
  rw [execEdgeMasked, onDev_eq_next]
  refine exists_congr fun v => and_congr_right fun _ => ?_
  rw [ite_refused_eq_next]
  refine and_congr_right fun _ => ?_
  rw [Host.Outcome.next.injEq, eq_comm]

/-- Everything rule R155 can do. -/
theorem execNoedgeLow_eq_next (x : Nat) (s t : State) :
    execNoedgeLow x s = .next t ↔ ∃ v, s.devs[x]? = some v ∧ 
      t = s := by
  rw [execNoedgeLow, onDev_eq_next]
  refine exists_congr fun v => and_congr_right fun _ => ?_
  rw [Host.Outcome.next.injEq, eq_comm]

/-- Everything rule R155 can do. -/
theorem execNoedgeFall_eq_next (x : Nat) (s t : State) :
    execNoedgeFall x s = .next t ↔ ∃ v, s.devs[x]? = some v ∧ 
      t = s := by
  rw [execNoedgeFall, onDev_eq_next]
  refine exists_congr fun v => and_congr_right fun _ => ?_
  rw [Host.Outcome.next.injEq, eq_comm]

/-- Everything rule R155 can do. -/
theorem execNoedgeHigh_eq_next (x : Nat) (s t : State) :
    execNoedgeHigh x s = .next t ↔ ∃ v, s.devs[x]? = some v ∧ 
      t = s := by
  rw [execNoedgeHigh, onDev_eq_next]
  refine exists_congr fun v => and_congr_right fun _ => ?_
  rw [Host.Outcome.next.injEq, eq_comm]

/-- Everything rule R174 can do. -/
theorem execReasmAcceptSelf_eq_next (x : Nat) (s t : State) :
    execReasmAcceptSelf x s = .next t ↔ ∃ v, s.devs[x]? = some v ∧ (complete s.cfg v && selfRequest v) = true ∧ 
      t = acceptFrame s x v := by
  rw [execReasmAcceptSelf, onDev_eq_next]
  refine exists_congr fun v => and_congr_right fun _ => ?_
  rw [ite_refused_eq_next]
  refine and_congr_right fun _ => ?_
  rw [Host.Outcome.next.injEq, eq_comm]

/-- Everything rule R174 can do. -/
theorem execReasmAcceptCoord_eq_next (x : Nat) (s t : State) :
    execReasmAcceptCoord x s = .next t ↔ ∃ v, s.devs[x]? = some v ∧ (complete s.cfg v && (!selfRequest v && coordinatorFrame v)) = true ∧ 
      t = acceptFrame s x v := by
  rw [execReasmAcceptCoord, onDev_eq_next]
  refine exists_congr fun v => and_congr_right fun _ => ?_
  rw [ite_refused_eq_next]
  refine and_congr_right fun _ => ?_
  rw [Host.Outcome.next.injEq, eq_comm]

/-- Everything rule R175 can do. -/
theorem execReasmReject_eq_next (x : Nat) (s t : State) :
    execReasmReject x s = .next t ↔ ∃ v, s.devs[x]? = some v ∧ (complete s.cfg v && !accepts v) = true ∧ 
      t = (s.setDev x v.clearRx.reasmDone).report (.drop x .filterReject) := by
  rw [execReasmReject, onDev_eq_next]
  refine exists_congr fun v => and_congr_right fun _ => ?_
  rw [ite_refused_eq_next]
  refine and_congr_right fun _ => ?_
  rw [Host.Outcome.next.injEq, eq_comm]

/-- Everything rule R176 can do. -/
theorem execReasmAbandon_eq_next (x : Nat) (s t : State) :
    execReasmAbandon x s = .next t ↔ ∃ v, s.devs[x]? = some v ∧ (midFrame s.cfg v && quiet v) = true ∧ 
      t = (s.setDev x v.clearRx.reasmDone).report (.drop x .abandonTimeout) := by
  rw [execReasmAbandon, onDev_eq_next]
  refine exists_congr fun v => and_congr_right fun _ => ?_
  rw [ite_refused_eq_next]
  refine and_congr_right fun _ => ?_
  rw [Host.Outcome.next.injEq, eq_comm]

/-- Everything rule R172 can do. -/
theorem execReasmNop_eq_next (x : Nat) (s t : State) :
    execReasmNop x s = .next t ↔ ∃ v, s.devs[x]? = some v ∧ (!complete s.cfg v && !(midFrame s.cfg v && quiet v)) = true ∧ 
      t = s.setDev x v.reasmDone := by
  rw [execReasmNop, onDev_eq_next]
  refine exists_congr fun v => and_congr_right fun _ => ?_
  rw [ite_refused_eq_next]
  refine and_congr_right fun _ => ?_
  rw [Host.Outcome.next.injEq, eq_comm]

/-- Everything rule R194 can do. -/
theorem execTxRise_eq_next (x : Nat) (s t : State) :
    execTxRise x s = .next t ↔ ∃ v, s.devs[x]? = some v ∧ (v.tx_phase = .setup ∧ v.tx_wait = 0) ∧ 
      resolveLink (s.setDev x { v with strobe_out := true, tx_phase := .high, tx_wait := s.cfg.t_pulse }) = .next t := by
  rw [execTxRise, onDev_eq_next]
  refine exists_congr fun v => and_congr_right fun _ => ?_
  rw [ite_refused_eq_next]

/-- Everything rule R195 can do. -/
theorem execTxFall_eq_next (x : Nat) (s t : State) :
    execTxFall x s = .next t ↔ ∃ v, s.devs[x]? = some v ∧ (v.tx_phase = .high ∧ v.tx_wait = 0) ∧ 
      resolveLink (s.setDev x { v with strobe_out := false, tx_phase := .low, tx_wait := s.cfg.t_bit_hold }) = .next t := by
  rw [execTxFall, onDev_eq_next]
  refine exists_congr fun v => and_congr_right fun _ => ?_
  rw [ite_refused_eq_next]

/-- Everything rule R196 can do. -/
theorem execTxNext_eq_next (x : Nat) (s t : State) :
    execTxNext x s = .next t ↔ ∃ v, s.devs[x]? = some v ∧ (v.tx_phase = .low ∧ v.tx_wait = 0 ∧ v.tx_index < s.cfg.N - 1) ∧ 
      t = s.setDev x { v with tx_index := v.tx_index + 1, tx_phase := .load } := by
  rw [execTxNext, onDev_eq_next]
  refine exists_congr fun v => and_congr_right fun _ => ?_
  rw [ite_refused_eq_next]
  refine and_congr_right fun _ => ?_
  rw [Host.Outcome.next.injEq, eq_comm]

/-- Everything rule R197 can do. -/
theorem execTxFramehold_eq_next (x : Nat) (s t : State) :
    execTxFramehold x s = .next t ↔ ∃ v, s.devs[x]? = some v ∧ (v.tx_phase = .low ∧ v.tx_wait = 0 ∧ v.tx_index = s.cfg.N - 1) ∧ 
      t = s.setDev x { v with tx_index := s.cfg.N, tx_phase := .framehold, tx_wait := s.cfg.t_frame_hold } := by
  rw [execTxFramehold, onDev_eq_next]
  refine exists_congr fun v => and_congr_right fun _ => ?_
  rw [ite_refused_eq_next]
  refine and_congr_right fun _ => ?_
  rw [Host.Outcome.next.injEq, eq_comm]

/-- Everything rule R198 can do. -/
theorem execTxEnd_eq_next (x : Nat) (s t : State) :
    execTxEnd x s = .next t ↔ ∃ v, s.devs[x]? = some v ∧ (v.tx_phase = .framehold ∧ v.tx_wait = 0) ∧ 
      resolveLink ((s.report (.sendReturned x)).setDev x { v with pin_dir := .input, edge_pending := none, rx_enable := true, mode := .receiving, tx_phase := .off }) = .next t := by
  rw [execTxEnd, onDev_eq_next]
  refine exists_congr fun v => and_congr_right fun _ => ?_
  rw [ite_refused_eq_next]

/-- Everything rule R112 can do. -/
theorem execTxUnreachable_eq_next (x : Nat) (s t : State) :
    execTxUnreachable x s = .next t ↔ ∃ v, s.devs[x]? = some v ∧ (v.tx_phase = .code6 ∨ v.tx_phase = .code7) ∧ 
      t = s := by
  rw [execTxUnreachable, onDev_eq_next]
  refine exists_congr fun v => and_congr_right fun _ => ?_
  rw [ite_refused_eq_next]
  refine and_congr_right fun _ => ?_
  rw [Host.Outcome.next.injEq, eq_comm]

/-- Everything rule R222 can do. -/
theorem execConfigure_eq_next (x : Nat) (id : Address) (s t : State) :
    execConfigure x id s = .next t ↔ ∃ v, s.devs[x]? = some v ∧ v.mode = .receiving ∧ 
      t = s.setDev x { v.clearRx with own_id := id, configured := true, rx_enable := true } := by
  rw [execConfigure, onDev_eq_next]
  refine exists_congr fun v => and_congr_right fun _ => ?_
  rw [ite_refused_eq_next]
  refine and_congr_right fun _ => ?_
  rw [Host.Outcome.next.injEq, eq_comm]

/-- Everything rule R228 can do. -/
theorem execPush_eq_next (x : Nat) (f : Frame) (s t : State) :
    execPush x f s = .next t ↔ ∃ v, s.devs[x]? = some v ∧ (complete s.cfg v && accepts v && queueHasRoom v && f == v.raw.bytes s.cfg.NB) = true ∧ 
      t = s.setDev x (v.pushFrame f) := by
  rw [execPush, onDev_eq_next]
  refine exists_congr fun v => and_congr_right fun _ => ?_
  rw [ite_refused_eq_next]
  refine and_congr_right fun _ => ?_
  rw [Host.Outcome.next.injEq, eq_comm]

/-- Everything rule R135 can do. -/
theorem execEncodeRequest_eq_next (x : Nat) (target : Address) (s t : State) :
    execEncodeRequest x target s = .next t ↔ ∃ v, s.devs[x]? = some v ∧ 
      t = s.report (.encoded x (encodeRequestFrame s.cfg target)) := by
  rw [execEncodeRequest, onDev_eq_next]
  refine exists_congr fun v => and_congr_right fun _ => ?_
  rw [Host.Outcome.next.injEq, eq_comm]

/-- Everything rule R136 can do. -/
theorem execDecodeFrame_eq_next (x : Nat) (f : Frame) (s t : State) :
    execDecodeFrame x f s = .next t ↔ ∃ v, s.devs[x]? = some v ∧ f.length = s.cfg.NB ∧ 
      t = s.report (.decoded x (decodeView s.cfg f)) := by
  rw [execDecodeFrame, onDev_eq_next]
  refine exists_congr fun v => and_congr_right fun _ => ?_
  rw [ite_refused_eq_next]
  refine and_congr_right fun _ => ?_
  rw [Host.Outcome.next.injEq, eq_comm]

/-- Everything rule R192 can do. -/
theorem execTxBegin_eq_next (x : Nat) (f : Frame) (s t : State) :
    execTxBegin x f s = .next t ↔
      (f.length = s.cfg.NB ∧ builtByCodec s.cfg f = true) ∧ beginTransmit s x f = .next t := by
  rw [execTxBegin, ite_refused_eq_next]

/-- Everything rule R193 can do. -/
theorem execTxData_eq_next (x : Nat) (s t : State) :
    execTxData x s = .next t ↔ ∃ v, s.devs[x]? = some v ∧ v.tx_phase = .load ∧ v.tx_index < s.cfg.N ∧
      resolveLink (s.setDev x
        { v with data_out := v.tx_buf.bit v.tx_index, tx_phase := .setup, tx_wait := s.cfg.t_bit_hold }) = .next t := by
  rw [execTxData, onDev_eq_next]
  refine exists_congr fun v => and_congr_right fun _ => ?_
  rw [ite_refused_eq_next]
  refine and_congr_right fun _ => ?_
  by_cases h : v.tx_index < s.cfg.N <;> simp [h]

/-- Everything rule R223 can do. -/
theorem execSend_eq_next (x : Nat) (path : List Byte) (kind : Byte) (val : BitVec 64) (s t : State) :
    execSend x path kind val s = .next t ↔ noZeroByte path = true ∧ isValueKind kind = true ∧
      beginTransmit s x (encodeDataFrame s.cfg kind path val) = .next t := by
  rw [execSend, onDev_eq_next]
  simp only [ite_refused_left_eq_next, Bool.not_eq_false, beginTransmit_eq_next]
  constructor
  · rintro ⟨v, hv, hc, hm, hz, hk, h⟩
    exact ⟨hz, hk, h⟩
  · rintro ⟨hz, hk, v, hv, hc, hm, hp, ho, ht⟩
    exact ⟨v, hv, hc, by rw [hm]; simp, hz, hk, v, hv, hc, hm, hp, ho, ht⟩

/-- Everything rule R224 can do. -/
theorem execSendRequest_eq_next (x : Nat) (target : Address) (s t : State) :
    execSendRequest x target s = .next t ↔ beginTransmit s x (encodeRequestFrame s.cfg target) = .next t := by
  rw [execSendRequest, onDev_eq_next]
  simp only [ite_refused_left_eq_next, Bool.not_eq_false, beginTransmit_eq_next]
  constructor
  · rintro ⟨v, hv, hc, hm, h⟩
    exact h
  · rintro ⟨v, hv, hc, hm, hp, ho, ht⟩
    exact ⟨v, hv, hc, by rw [hm]; simp, v, hv, hc, hm, hp, ho, ht⟩

/-- Everything rule R225 can do. -/
theorem execPoll_eq_next (x : Nat) (s t : State) :
    execPoll x s = .next t ↔ ∃ v, s.devs[x]? = some v ∧ v.configured = true ∧
      (v.queue = [] ∧ t = s.report (.polled x none) ∨
        ∃ f rest, v.queue = f :: rest ∧ t = (s.setDev x { v with queue := rest }).report (.polled x (some f))) := by
  rw [execPoll, onDev_eq_next]
  refine exists_congr fun v => and_congr_right fun _ => ?_
  rw [ite_refused_left_eq_next]
  refine and_congr (by simp) ?_
  cases h : v.queue with
  | nil => simp [eq_comm]
  | cons f rest =>
    constructor
    · intro h; injection h with h; exact .inr ⟨f, rest, rfl, h.symm⟩
    · rintro (⟨h, -⟩ | ⟨f', rest', h, rfl⟩)
      · cases h
      · cases h; rfl

/-- Everything rule R134 can do. -/
theorem execEncodeData_eq_next (x : Nat) (kind : Byte) (path : List Byte) (val : BitVec 64) (s t : State) :
    execEncodeData x kind path val s = .next t ↔ (∃ v, s.devs[x]? = some v) ∧ noZeroByte path = true ∧
      isValueKind kind = true ∧ t = s.report (.encoded x (encodeDataFrame s.cfg kind path val)) := by
  rw [execEncodeData, onDev_eq_next]
  simp only [ite_refused_left_eq_next, Bool.not_eq_false, Host.Outcome.next.injEq, @eq_comm _ _ t]
  constructor
  · rintro ⟨v, hv, h⟩; exact ⟨⟨v, hv⟩, h⟩
  · rintro ⟨⟨v, hv⟩, h⟩; exact ⟨v, hv, h⟩

/-- Everything rule R262 can do. -/
theorem execTick_eq_next (s t : State) :
    execTick s = .next t ↔ tickEnabled s = true ∧
      t = { s with now := s.now + 1, devs := s.devs.map Device.tick } := by
  rw [execTick, ite_refused_eq_next, Host.Outcome.next.injEq, @eq_comm _ t]

/-- Everything rule R290 can do. -/
theorem execReset_eq_next (x : Nat) (s t : State) :
    execReset x s = .next t ↔ ∃ v, s.devs[x]? = some v ∧ resolveLink (s.setDev x (Device.initial v.params)) = .next t := by
  rw [execReset, onDev_eq_next]; rfl

/-- Everything rule R276 can do: the pending edge of one listening device changes. -/
theorem applyLineFault_eq_next (x : Nat) (e : LineFault) (s t : State) :
    applyLineFault x e s = .next t ↔ ∃ v, s.devs[x]? = some v ∧ (s.cfg.line_faults = true ∧ v.pin_dir = .input) ∧
      ((∃ d, e = .spurious d ∧ v.edge_pending = none ∧ t = s.setDev x { v with edge_pending := some d }) ∨
        (∃ d, e = .lose ∧ v.edge_pending = some d ∧ t = s.setDev x { v with edge_pending := none }) ∨
        ∃ d, e = .flip ∧ v.edge_pending = some d ∧ t = s.setDev x { v with edge_pending := some !d }) := by
  rw [applyLineFault, onDev_eq_next]
  refine exists_congr fun v => and_congr_right fun _ => ?_
  rw [ite_refused_eq_next]
  refine and_congr_right fun _ => ?_
  cases e <;> cases h : v.edge_pending <;> simp [eq_comm]

/-- A step runs the fetched instruction or the fetched line fault. -/
theorem step_eq_next (s t : State) :
    step s = .next t ↔ (∃ i, fetch s = .instr i ∧ exec i (afterFetch s) = .next t) ∨
      ∃ x e, fetch s = .lineFault x e ∧ applyLineFault x e (afterFetch s) = .next t := by
  rw [step]
  cases h : fetch s with
  | instr i => simp
  | bad e => simp
  | internal i => simp
  | lineFault x e =>
    constructor
    · intro ht; exact .inr ⟨x, e, rfl, ht⟩
    · rintro (⟨i, hi, -⟩ | ⟨x', e', he, ht⟩)
      · cases hi
      · cases he; exact ht

end Sys2Proof.Machine
end

