-- ==== Sys2Proof/Laws/Effect.lean ====
section
/-! SUPPORT. Laws/Effect.lean: what an operation can do to one device, said once for all operations. -/

namespace Sys2Proof.Machine

/-- What `TX_BEGIN(f)` does to the device it runs at, with its guards (rule R192). -/
def beginEffect (v u : Device) (f : Frame) : Prop :=
  v.configured = true ∧ v.mode = .receiving ∧ v.tx_phase = .off ∧ u = v.enterTransmit f

/-- What `REASM_ACCEPT` does to the device it runs at (rule R174). -/
def acceptEffect (c : Params) (v u : Device) : Prop :=
  if queueHasRoom v = true then u = (v.pushFrame (v.raw.bytes c.NB)).clearRx.reasmDone
  else u = { v.clearRx.reasmDone with q_overflow := true }

/-- What an instruction does to the device it runs at, before the edge that a rise of the strobe may deliver. -/
def deviceEffect (c : Params) (i : Instr) (v u : Device) : Prop :=
  match i with
  | .kindUnknown .. | .kindRequestOnly .. | .kindFloat .. | .kindDouble .. | .kindInt64 .. | .kindUint64 .. => u = v
  | .kindReserved6 .. | .kindReserved8 .. | .kindReserved16 .. | .kindReserved32 .. | .kindReserved64 ..
  | .kindReserved128 .. => u = v
  | .sample _ d =>
    (v.edge_pending = some d ∧ v.rx_enable = true ∧ v.bit_offset < c.N) ∧
      u = { v with
            raw := v.raw.setBitAt v.bit_offset d, bit_offset := v.bit_offset + 1, idle_ticks := 0
            edge_pending := none }
  | .edgeOverrun _ d =>
    (v.edge_pending = some d ∧ v.rx_enable = true ∧ v.bit_offset = c.N) ∧
      u = { v with idle_ticks := 0, edge_pending := none }
  | .edgeMasked _ d => (v.edge_pending = some d ∧ v.rx_enable = false) ∧ u = { v with edge_pending := none }
  | .noedgeLow _ | .noedgeFall _ | .noedgeHigh _ => u = v
  | .reasmAcceptSelf _ => (complete c v && selfRequest v) = true ∧ acceptEffect c v u
  | .reasmAcceptCoord _ => (complete c v && (!selfRequest v && coordinatorFrame v)) = true ∧ acceptEffect c v u
  | .reasmReject _ => (complete c v && !accepts v) = true ∧ u = v.clearRx.reasmDone
  | .reasmAbandon _ => (midFrame c v && quiet v) = true ∧ u = v.clearRx.reasmDone
  | .reasmNop _ => u = v.reasmDone
  | .txBegin _ f => (f.length = c.NB ∧ builtByCodec c f = true) ∧ beginEffect v u f
  | .txData _ =>
    (v.tx_phase = .load ∧ v.tx_index < c.N) ∧
      u = { v with data_out := v.tx_buf.bit v.tx_index, tx_phase := .setup, tx_wait := c.t_bit_hold }
  | .txRise _ =>
    (v.tx_phase = .setup ∧ v.tx_wait = 0) ∧ u = { v with strobe_out := true, tx_phase := .high, tx_wait := c.t_pulse }
  | .txFall _ =>
    (v.tx_phase = .high ∧ v.tx_wait = 0) ∧
      u = { v with strobe_out := false, tx_phase := .low, tx_wait := c.t_bit_hold }
  | .txNext _ =>
    (v.tx_phase = .low ∧ v.tx_wait = 0 ∧ v.tx_index < c.N - 1) ∧
      u = { v with tx_index := v.tx_index + 1, tx_phase := .load }
  | .txFramehold _ =>
    (v.tx_phase = .low ∧ v.tx_wait = 0 ∧ v.tx_index = c.N - 1) ∧
      u = { v with tx_index := c.N, tx_phase := .framehold, tx_wait := c.t_frame_hold }
  | .txEnd _ =>
    (v.tx_phase = .framehold ∧ v.tx_wait = 0) ∧
      u = { v with
            pin_dir := .input, edge_pending := none, rx_enable := true, mode := .receiving, tx_phase := .off }
  | .txWaitSetup _ | .txWaitHigh _ | .txWaitLow _ | .txWaitFramehold _ | .txUnreachable _ => u = v
  | .configure _ id => v.mode = .receiving ∧ u = { v.clearRx with own_id := id, configured := true, rx_enable := true }
  | .send _ p k val => beginEffect v u (encodeDataFrame c k p val)
  | .sendRequest _ a => beginEffect v u (encodeRequestFrame c a)
  | .poll _ => v.queue = [] ∧ u = v ∨ ∃ f rest, v.queue = f :: rest ∧ u = { v with queue := rest }
  | .encodeData .. | .encodeRequest .. | .decodeFrame .. => u = v
  | .push _ f =>
    (complete c v && accepts v && queueHasRoom v && f == v.raw.bytes c.NB) = true ∧ u = v.pushFrame f
  | .tick => letsTimePass c v = true ∧ u = v.tick
  | .linkResolve => u = v
  | .reset _ => u = Device.initial v.params

/-- The edge a rise of the strobe delivers to a listening device (rule R270). -/
def edgeDelivered (s t : State) (u w : Device) : Prop :=
  w = u ∨ (w = { u with edge_pending := some t.line_data } ∧ u.pin_dir = .input ∧ s.line_strobe = false ∧
    t.line_strobe = true)

/-- A device after `LINK_RESOLVE` is what it was, but for a delivered edge. -/
theorem resolveLink_device (s t : State) (y : Nat) (w : Device) (h : resolveLink s = .next t)
    (hw : t.devs[y]? = some w) : ∃ u, s.devs[y]? = some u ∧ edgeDelivered s t u w := by
  have key : ∀ (s' : State) (st d : Bool), s'.devs = s.devs → s'.line_strobe = s.line_strobe →
      t = driveLines s' st d → ∃ u, s.devs[y]? = some u ∧ edgeDelivered s t u w := by
    rintro s' st d hd hl rfl
    rw [driveLines_getElem?, Option.map_eq_some_iff] at hw
    obtain ⟨u, hu, rfl⟩ := hw
    refine ⟨u, hd ▸ hu, ?_⟩
    rw [hl]
    split
    · next hr =>
      simp only [Bool.and_eq_true, Bool.not_eq_true'] at hr
      unfold deliverEdge
      split
      · next hp => exact .inr ⟨rfl, hp, hr.1, hr.2⟩
      · exact .inl rfl
    · exact .inl rfl
  rcases (resolveLink_eq_next s t).1 h with ⟨-, ht⟩ | ⟨a, -, ht⟩
  · exact key { s with free_count := s.free_count + 1 } _ _ rfl rfl ht
  · exact key _ _ _ rfl rfl ht

/-- A device of a state with device `x` replaced. -/
theorem setDev_device (s : State) (x y : Nat) (v w u : Device) (hv : s.devs[x]? = some v)
    (hu : (s.setDev x w).devs[y]? = some u) : y = x ∧ u = w ∨ y ≠ x ∧ s.devs[y]? = some u := by
  by_cases h : y = x
  · subst h
    rw [setDev_getElem?_self s y v w hv] at hu
    exact .inl ⟨rfl, by cases hu; rfl⟩
  · rw [setDev_getElem?_ne s x y w h] at hu
    exact .inr ⟨h, hu⟩

/-- Everything an instruction can do to a device `y`: its own effect if it runs at `y`, and a delivered edge. -/
theorem exec_device (i : Instr) (s t : State) (y : Nat) (v w : Device) (h : exec i s = .next t)
    (hv : s.devs[y]? = some v) (hw : t.devs[y]? = some w) :
    ∃ u, ((i.dev = y ∨ i = .tick) ∧ deviceEffect s.cfg i v u ∨ (i.dev ≠ y ∨ i = .linkResolve) ∧ u = v) ∧
      edgeDelivered s t u w := by
  have same : t.devs = s.devs → (i.dev = y → deviceEffect s.cfg i v v) →
      ∃ u, ((i.dev = y ∨ i = .tick) ∧ deviceEffect s.cfg i v u ∨ (i.dev ≠ y ∨ i = .linkResolve) ∧ u = v) ∧
        edgeDelivered s t u w := by
    intro hd he
    rw [hd, hv] at hw
    cases hw
    by_cases hy : i.dev = y
    · exact ⟨v, .inl ⟨.inl hy, he hy⟩, .inl rfl⟩
    · exact ⟨v, .inr ⟨.inl hy, rfl⟩, .inl rfl⟩
  have set : ∀ (v' u' : Device), s.devs[i.dev]? = some v' → t.devs = (s.setDev i.dev u').devs →
      deviceEffect s.cfg i v' u' →
      ∃ u, ((i.dev = y ∨ i = .tick) ∧ deviceEffect s.cfg i v u ∨ (i.dev ≠ y ∨ i = .linkResolve) ∧ u = v) ∧
        edgeDelivered s t u w := by
    intro v' u' hv' hd he
    rw [hd] at hw
    rcases setDev_device s i.dev y v' u' w hv' hw with ⟨hy, rfl⟩ | ⟨hy, hw'⟩
    · rw [← hy, hv] at hv'
      cases hv'
      exact ⟨_, .inl ⟨.inl hy.symm, he⟩, .inl rfl⟩
    · rw [hv] at hw'
      cases hw'
      exact ⟨_, .inr ⟨.inl (Ne.symm hy), rfl⟩, .inl rfl⟩
  have res : ∀ (s' : State) (v' u' : Device), s.devs[i.dev]? = some v' → s'.devs = s.devs →
      s'.line_strobe = s.line_strobe → resolveLink (s'.setDev i.dev u') = .next t → deviceEffect s.cfg i v' u' →
      ∃ u, ((i.dev = y ∨ i = .tick) ∧ deviceEffect s.cfg i v u ∨ (i.dev ≠ y ∨ i = .linkResolve) ∧ u = v) ∧
        edgeDelivered s t u w := by
    intro s' v' u' hv' hd hl hr he
    obtain ⟨u, hu, hed⟩ := resolveLink_device _ t y w hr hw
    have hed' : edgeDelivered s t u w := by
      unfold edgeDelivered at hed ⊢
      rw [State.setDev_line_strobe, hl] at hed
      exact hed
    rcases setDev_device s' i.dev y v' u' u (by rw [hd]; exact hv') hu with ⟨hy, rfl⟩ | ⟨hy, hu'⟩
    · rw [← hy, hv] at hv'
      cases hv'
      exact ⟨_, .inl ⟨.inl hy.symm, he⟩, hed'⟩
    · rw [hd, hv] at hu'
      cases hu'
      exact ⟨_, .inr ⟨.inl (Ne.symm hy), rfl⟩, hed'⟩
  have beg : ∀ f, beginTransmit s i.dev f = .next t →
      (∀ v' u', beginEffect v' u' f → deviceEffect s.cfg i v' u') →
      ∃ u, ((i.dev = y ∨ i = .tick) ∧ deviceEffect s.cfg i v u ∨ (i.dev ≠ y ∨ i = .linkResolve) ∧ u = v) ∧
        edgeDelivered s t u w := by
    intro f hb hk
    obtain ⟨v', hv', hc, hm, hp, ho, rfl⟩ := (beginTransmit_eq_next s t i.dev f).1 hb
    refine set v' (v'.enterTransmit f) hv' ?_ (hk _ _ ⟨hc, hm, hp, rfl⟩)
    rw [driveLines_devs_of_low]
    unfold reportTxAbandon
    split <;> rfl
  have rep : ∀ path view, reportReading s i.dev path view = .next t → (i.dev = y → deviceEffect s.cfg i v v) →
      ∃ u, ((i.dev = y ∨ i = .tick) ∧ deviceEffect s.cfg i v u ∨ (i.dev ≠ y ∨ i = .linkResolve) ∧ u = v) ∧
        edgeDelivered s t u w := by
    intro path view hr he
    obtain ⟨-, -, rfl⟩ := (reportReading_eq_next s t i.dev path view).1 hr
    exact same rfl he
  have acc : ∀ v', s.devs[i.dev]? = some v' → t = acceptFrame s i.dev v' →
      (∀ u', acceptEffect s.cfg v' u' → deviceEffect s.cfg i v' u') →
      ∃ u, ((i.dev = y ∨ i = .tick) ∧ deviceEffect s.cfg i v u ∨ (i.dev ≠ y ∨ i = .linkResolve) ∧ u = v) ∧
        edgeDelivered s t u w := by
    intro v' hv' ht he
    rw [acceptFrame_eq] at ht
    unfold acceptEffect at he
    by_cases hr : queueHasRoom v' = true
    · rw [if_pos hr] at ht
      simp only [if_pos hr] at he
      exact set v' _ hv' (by rw [ht]) (he _ rfl)
    · rw [if_neg hr] at ht
      simp only [if_neg hr] at he
      exact set v' _ hv' (by rw [ht]; rfl) (he _ rfl)
  cases i with
  | kindUnknown x r p val => exact rep _ _ h (fun _ => rfl)
  | kindRequestOnly x r p val => exact rep _ _ h (fun _ => rfl)
  | kindFloat x r p val => exact rep _ _ h (fun _ => rfl)
  | kindDouble x r p val => exact rep _ _ h (fun _ => rfl)
  | kindInt64 x r p val => exact rep _ _ h (fun _ => rfl)
  | kindUint64 x r p val => exact rep _ _ h (fun _ => rfl)
  | kindReserved6 x b r p val => exact rep _ _ h (fun _ => rfl)
  | kindReserved8 x b r p val => exact rep _ _ h (fun _ => rfl)
  | kindReserved16 x b r p val => exact rep _ _ h (fun _ => rfl)
  | kindReserved32 x b r p val => exact rep _ _ h (fun _ => rfl)
  | kindReserved64 x b r p val => exact rep _ _ h (fun _ => rfl)
  | kindReserved128 x b r p val => exact rep _ _ h (fun _ => rfl)
  | sample x d =>
    obtain ⟨v', hv', hg, rfl⟩ := (execSample_eq_next x d s t).1 h
    exact set v' _ hv' rfl ⟨hg, rfl⟩
  | edgeOverrun x d =>
    obtain ⟨v', hv', hg, rfl⟩ := (execEdgeOverrun_eq_next x d s t).1 h
    exact set v' _ hv' rfl ⟨hg, rfl⟩
  | edgeMasked x d =>
    obtain ⟨v', hv', hg, rfl⟩ := (execEdgeMasked_eq_next x d s t).1 h
    exact set v' _ hv' rfl ⟨hg, rfl⟩
  | noedgeLow x =>
    obtain ⟨v', hv', rfl⟩ := (execNoedgeLow_eq_next x s t).1 h
    exact same rfl (fun _ => rfl)
  | noedgeFall x =>
    obtain ⟨v', hv', rfl⟩ := (execNoedgeFall_eq_next x s t).1 h
    exact same rfl (fun _ => rfl)
  | noedgeHigh x =>
    obtain ⟨v', hv', rfl⟩ := (execNoedgeHigh_eq_next x s t).1 h
    exact same rfl (fun _ => rfl)
  | reasmAcceptSelf x =>
    obtain ⟨v', hv', hg, ht⟩ := (execReasmAcceptSelf_eq_next x s t).1 h
    exact acc v' hv' ht (fun _ he => ⟨hg, he⟩)
  | reasmAcceptCoord x =>
    obtain ⟨v', hv', hg, ht⟩ := (execReasmAcceptCoord_eq_next x s t).1 h
    exact acc v' hv' ht (fun _ he => ⟨hg, he⟩)
  | reasmReject x =>
    obtain ⟨v', hv', hg, rfl⟩ := (execReasmReject_eq_next x s t).1 h
    exact set v' _ hv' rfl ⟨hg, rfl⟩
  | reasmAbandon x =>
    obtain ⟨v', hv', hg, rfl⟩ := (execReasmAbandon_eq_next x s t).1 h
    exact set v' _ hv' rfl ⟨hg, rfl⟩
  | reasmNop x =>
    obtain ⟨v', hv', -, rfl⟩ := (execReasmNop_eq_next x s t).1 h
    exact set v' _ hv' rfl rfl
  | txBegin x f =>
    obtain ⟨hf, hb⟩ := (execTxBegin_eq_next x f s t).1 h
    exact beg f hb (fun _ _ he => ⟨hf, he⟩)
  | txData x =>
    obtain ⟨v', hv', hp, hi, hr⟩ := (execTxData_eq_next x s t).1 h
    exact res s v' _ hv' rfl rfl hr ⟨⟨hp, hi⟩, rfl⟩
  | txRise x =>
    obtain ⟨v', hv', hg, hr⟩ := (execTxRise_eq_next x s t).1 h
    exact res s v' _ hv' rfl rfl hr ⟨hg, rfl⟩
  | txFall x =>
    obtain ⟨v', hv', hg, hr⟩ := (execTxFall_eq_next x s t).1 h
    exact res s v' _ hv' rfl rfl hr ⟨hg, rfl⟩
  | txNext x =>
    obtain ⟨v', hv', hg, rfl⟩ := (execTxNext_eq_next x s t).1 h
    exact set v' _ hv' rfl ⟨hg, rfl⟩
  | txFramehold x =>
    obtain ⟨v', hv', hg, rfl⟩ := (execTxFramehold_eq_next x s t).1 h
    exact set v' _ hv' rfl ⟨hg, rfl⟩
  | txEnd x =>
    obtain ⟨v', hv', hg, hr⟩ := (execTxEnd_eq_next x s t).1 h
    exact res (s.report (.sendReturned x)) v' _ hv' rfl rfl hr ⟨hg, rfl⟩
  | txWaitSetup x =>
    obtain ⟨v', hv', hg, rfl⟩ := (waitInPhase_eq_next s t x .setup).1 h
    exact same rfl (fun _ => rfl)
  | txWaitHigh x =>
    obtain ⟨v', hv', hg, rfl⟩ := (waitInPhase_eq_next s t x .high).1 h
    exact same rfl (fun _ => rfl)
  | txWaitLow x =>
    obtain ⟨v', hv', hg, rfl⟩ := (waitInPhase_eq_next s t x .low).1 h
    exact same rfl (fun _ => rfl)
  | txWaitFramehold x =>
    obtain ⟨v', hv', hg, rfl⟩ := (waitInPhase_eq_next s t x .framehold).1 h
    exact same rfl (fun _ => rfl)
  | txUnreachable x =>
    obtain ⟨v', hv', hg, rfl⟩ := (execTxUnreachable_eq_next x s t).1 h
    exact same rfl (fun _ => rfl)
  | configure x id =>
    obtain ⟨v', hv', hg, rfl⟩ := (execConfigure_eq_next x id s t).1 h
    exact set v' _ hv' rfl ⟨hg, rfl⟩
  | send x p k val =>
    obtain ⟨-, -, hb⟩ := (execSend_eq_next x p k val s t).1 h
    exact beg _ hb (fun _ _ he => he)
  | sendRequest x a => exact beg _ ((execSendRequest_eq_next x a s t).1 h) (fun _ _ he => he)
  | poll x =>
    obtain ⟨v', hv', -, hq⟩ := (execPoll_eq_next x s t).1 h
    rcases hq with ⟨hq, rfl⟩ | ⟨f, rest, hq, rfl⟩
    · exact same rfl (fun hy => .inl ⟨by
        have hx : x = y := hy
        rw [hx, hv] at hv'
        cases hv'
        exact hq, rfl⟩)
    · exact set v' _ hv' rfl (.inr ⟨f, rest, hq, rfl⟩)
  | encodeData x k p val =>
    obtain ⟨-, -, -, rfl⟩ := (execEncodeData_eq_next x k p val s t).1 h
    exact same rfl (fun _ => rfl)
  | encodeRequest x a =>
    obtain ⟨v', hv', rfl⟩ := (execEncodeRequest_eq_next x a s t).1 h
    exact same rfl (fun _ => rfl)
  | decodeFrame x f =>
    obtain ⟨v', hv', hg, rfl⟩ := (execDecodeFrame_eq_next x f s t).1 h
    exact same rfl (fun _ => rfl)
  | push x f =>
    obtain ⟨v', hv', hg, rfl⟩ := (execPush_eq_next x f s t).1 h
    exact set v' _ hv' rfl ⟨hg, rfl⟩
  | tick =>
    obtain ⟨hg, rfl⟩ := (execTick_eq_next s t).1 h
    rw [List.getElem?_map, hv, Option.map_some] at hw
    cases hw
    exact ⟨_, .inl ⟨.inr rfl, List.all_eq_true.1 hg v (List.mem_of_getElem? hv), rfl⟩, .inl rfl⟩
  | linkResolve =>
    obtain ⟨u, hu, hed⟩ := resolveLink_device s t y w h hw
    rw [hv] at hu
    cases hu
    exact ⟨_, .inr ⟨.inr rfl, rfl⟩, hed⟩
  | reset x =>
    obtain ⟨v', hv', hr⟩ := (execReset_eq_next x s t).1 h
    exact res s v' _ hv' rfl rfl hr rfl

end Sys2Proof.Machine
end

