-- ==== Sys2Proof/Laws/PerInstr.lean ====
section
/-! SUPPORT. Laws/PerInstr.lean: the per-instruction family `EncodeMatchesRow`. -/

namespace Sys2Proof.Laws

open Sys2Proof

/-- The operation word of an instruction starts with a vector that matches its row's pattern under its row's mask, and that
no other row of its format matches, followed by the byte of its format (rules R110 to R113, R116, R124). -/
def EncodeMatchesRow.Statement (i : Instr) : Prop :=
  (∃ args, encode i = i.vector :: i.row.format.tag :: args) ∧
    i.row.format.rows.filter (fun r => r.matches i.vector) = [i.row]

theorem EncodeMatchesRow.kindUnknown (x : Nat) (rid : Address) (path : List Byte) (val : BitVec 64) :
    EncodeMatchesRow.Statement (.kindUnknown x rid path val) := ⟨⟨_, rfl⟩, by simp only [Instr.vector, Instr.row]; decide⟩

theorem EncodeMatchesRow.kindRequestOnly (x : Nat) (rid : Address) (path : List Byte) (val : BitVec 64) :
    EncodeMatchesRow.Statement (.kindRequestOnly x rid path val) := ⟨⟨_, rfl⟩, by simp only [Instr.vector, Instr.row]; decide⟩

theorem EncodeMatchesRow.kindFloat (x : Nat) (rid : Address) (path : List Byte) (val : BitVec 64) :
    EncodeMatchesRow.Statement (.kindFloat x rid path val) := ⟨⟨_, rfl⟩, by simp only [Instr.vector, Instr.row]; decide⟩

theorem EncodeMatchesRow.kindDouble (x : Nat) (rid : Address) (path : List Byte) (val : BitVec 64) :
    EncodeMatchesRow.Statement (.kindDouble x rid path val) := ⟨⟨_, rfl⟩, by simp only [Instr.vector, Instr.row]; decide⟩

theorem EncodeMatchesRow.kindInt64 (x : Nat) (rid : Address) (path : List Byte) (val : BitVec 64) :
    EncodeMatchesRow.Statement (.kindInt64 x rid path val) := ⟨⟨_, rfl⟩, by simp only [Instr.vector, Instr.row]; decide⟩

theorem EncodeMatchesRow.kindUint64 (x : Nat) (rid : Address) (path : List Byte) (val : BitVec 64) :
    EncodeMatchesRow.Statement (.kindUint64 x rid path val) := ⟨⟨_, rfl⟩, by simp only [Instr.vector, Instr.row]; decide⟩

theorem EncodeMatchesRow.kindReserved6 (x : Nat) (b : BitVec 1) (rid : Address) (path : List Byte) (val : BitVec 64) :
    EncodeMatchesRow.Statement (.kindReserved6 x b rid path val) := ⟨⟨_, rfl⟩, by revert b; simp only [Instr.vector, Instr.row]; decide⟩

theorem EncodeMatchesRow.kindReserved8 (x : Nat) (b : BitVec 3) (rid : Address) (path : List Byte) (val : BitVec 64) :
    EncodeMatchesRow.Statement (.kindReserved8 x b rid path val) := ⟨⟨_, rfl⟩, by revert b; simp only [Instr.vector, Instr.row]; decide⟩

theorem EncodeMatchesRow.kindReserved16 (x : Nat) (b : BitVec 4) (rid : Address) (path : List Byte) (val : BitVec 64) :
    EncodeMatchesRow.Statement (.kindReserved16 x b rid path val) := ⟨⟨_, rfl⟩, by revert b; simp only [Instr.vector, Instr.row]; decide⟩

theorem EncodeMatchesRow.kindReserved32 (x : Nat) (b : BitVec 5) (rid : Address) (path : List Byte) (val : BitVec 64) :
    EncodeMatchesRow.Statement (.kindReserved32 x b rid path val) := ⟨⟨_, rfl⟩, by revert b; simp only [Instr.vector, Instr.row]; decide⟩

theorem EncodeMatchesRow.kindReserved64 (x : Nat) (b : BitVec 6) (rid : Address) (path : List Byte) (val : BitVec 64) :
    EncodeMatchesRow.Statement (.kindReserved64 x b rid path val) := ⟨⟨_, rfl⟩, by revert b; simp only [Instr.vector, Instr.row]; decide⟩

theorem EncodeMatchesRow.kindReserved128 (x : Nat) (b : BitVec 7) (rid : Address) (path : List Byte) (val : BitVec 64) :
    EncodeMatchesRow.Statement (.kindReserved128 x b rid path val) := ⟨⟨_, rfl⟩, by revert b; simp only [Instr.vector, Instr.row]; decide⟩

theorem EncodeMatchesRow.sample (x : Nat) (d : Bool) :
    EncodeMatchesRow.Statement (.sample x d) := ⟨⟨_, rfl⟩, by revert d; simp only [Instr.vector, Instr.row]; decide⟩

theorem EncodeMatchesRow.edgeOverrun (x : Nat) (d : Bool) :
    EncodeMatchesRow.Statement (.edgeOverrun x d) := ⟨⟨_, rfl⟩, by revert d; simp only [Instr.vector, Instr.row]; decide⟩

theorem EncodeMatchesRow.edgeMasked (x : Nat) (d : Bool) :
    EncodeMatchesRow.Statement (.edgeMasked x d) := ⟨⟨_, rfl⟩, by revert d; simp only [Instr.vector, Instr.row]; decide⟩

theorem EncodeMatchesRow.noedgeLow (x : Nat) :
    EncodeMatchesRow.Statement (.noedgeLow x) := ⟨⟨_, rfl⟩, by simp only [Instr.vector, Instr.row]; decide⟩

theorem EncodeMatchesRow.noedgeFall (x : Nat) :
    EncodeMatchesRow.Statement (.noedgeFall x) := ⟨⟨_, rfl⟩, by simp only [Instr.vector, Instr.row]; decide⟩

theorem EncodeMatchesRow.noedgeHigh (x : Nat) :
    EncodeMatchesRow.Statement (.noedgeHigh x) := ⟨⟨_, rfl⟩, by simp only [Instr.vector, Instr.row]; decide⟩

theorem EncodeMatchesRow.reasmAcceptSelf (x : Nat) :
    EncodeMatchesRow.Statement (.reasmAcceptSelf x) := ⟨⟨_, rfl⟩, by simp only [Instr.vector, Instr.row]; decide⟩

theorem EncodeMatchesRow.reasmAcceptCoord (x : Nat) :
    EncodeMatchesRow.Statement (.reasmAcceptCoord x) := ⟨⟨_, rfl⟩, by simp only [Instr.vector, Instr.row]; decide⟩

theorem EncodeMatchesRow.reasmReject (x : Nat) :
    EncodeMatchesRow.Statement (.reasmReject x) := ⟨⟨_, rfl⟩, by simp only [Instr.vector, Instr.row]; decide⟩

theorem EncodeMatchesRow.reasmAbandon (x : Nat) :
    EncodeMatchesRow.Statement (.reasmAbandon x) := ⟨⟨_, rfl⟩, by simp only [Instr.vector, Instr.row]; decide⟩

theorem EncodeMatchesRow.reasmNop (x : Nat) :
    EncodeMatchesRow.Statement (.reasmNop x) := ⟨⟨_, rfl⟩, by simp only [Instr.vector, Instr.row]; decide⟩

theorem EncodeMatchesRow.txBegin (x : Nat) (f : Frame) :
    EncodeMatchesRow.Statement (.txBegin x f) := ⟨⟨_, rfl⟩, by simp only [Instr.vector, Instr.row]; decide⟩

theorem EncodeMatchesRow.txData (x : Nat) :
    EncodeMatchesRow.Statement (.txData x) := ⟨⟨_, rfl⟩, by simp only [Instr.vector, Instr.row]; decide⟩

theorem EncodeMatchesRow.txRise (x : Nat) :
    EncodeMatchesRow.Statement (.txRise x) := ⟨⟨_, rfl⟩, by simp only [Instr.vector, Instr.row]; decide⟩

theorem EncodeMatchesRow.txFall (x : Nat) :
    EncodeMatchesRow.Statement (.txFall x) := ⟨⟨_, rfl⟩, by simp only [Instr.vector, Instr.row]; decide⟩

theorem EncodeMatchesRow.txNext (x : Nat) :
    EncodeMatchesRow.Statement (.txNext x) := ⟨⟨_, rfl⟩, by simp only [Instr.vector, Instr.row]; decide⟩

theorem EncodeMatchesRow.txFramehold (x : Nat) :
    EncodeMatchesRow.Statement (.txFramehold x) := ⟨⟨_, rfl⟩, by simp only [Instr.vector, Instr.row]; decide⟩

theorem EncodeMatchesRow.txEnd (x : Nat) :
    EncodeMatchesRow.Statement (.txEnd x) := ⟨⟨_, rfl⟩, by simp only [Instr.vector, Instr.row]; decide⟩

theorem EncodeMatchesRow.txWaitSetup (x : Nat) :
    EncodeMatchesRow.Statement (.txWaitSetup x) := ⟨⟨_, rfl⟩, by simp only [Instr.vector, Instr.row]; decide⟩

theorem EncodeMatchesRow.txWaitHigh (x : Nat) :
    EncodeMatchesRow.Statement (.txWaitHigh x) := ⟨⟨_, rfl⟩, by simp only [Instr.vector, Instr.row]; decide⟩

theorem EncodeMatchesRow.txWaitLow (x : Nat) :
    EncodeMatchesRow.Statement (.txWaitLow x) := ⟨⟨_, rfl⟩, by simp only [Instr.vector, Instr.row]; decide⟩

theorem EncodeMatchesRow.txWaitFramehold (x : Nat) :
    EncodeMatchesRow.Statement (.txWaitFramehold x) := ⟨⟨_, rfl⟩, by simp only [Instr.vector, Instr.row]; decide⟩

theorem EncodeMatchesRow.txUnreachable (x : Nat) :
    EncodeMatchesRow.Statement (.txUnreachable x) := ⟨⟨_, rfl⟩, by simp only [Instr.vector, Instr.row]; decide⟩

theorem EncodeMatchesRow.configure (x : Nat) (id : Address) :
    EncodeMatchesRow.Statement (.configure x id) := ⟨⟨_, rfl⟩, by simp only [Instr.vector, Instr.row]; decide⟩

theorem EncodeMatchesRow.send (x : Nat) (path : List Byte) (kind : Byte) (v : BitVec 64) :
    EncodeMatchesRow.Statement (.send x path kind v) := ⟨⟨_, rfl⟩, by simp only [Instr.vector, Instr.row]; decide⟩

theorem EncodeMatchesRow.sendRequest (x : Nat) (target : Address) :
    EncodeMatchesRow.Statement (.sendRequest x target) := ⟨⟨_, rfl⟩, by simp only [Instr.vector, Instr.row]; decide⟩

theorem EncodeMatchesRow.poll (x : Nat) :
    EncodeMatchesRow.Statement (.poll x) := ⟨⟨_, rfl⟩, by simp only [Instr.vector, Instr.row]; decide⟩

theorem EncodeMatchesRow.encodeData (x : Nat) (kind : Byte) (path : List Byte) (v : BitVec 64) :
    EncodeMatchesRow.Statement (.encodeData x kind path v) := ⟨⟨_, rfl⟩, by simp only [Instr.vector, Instr.row]; decide⟩

theorem EncodeMatchesRow.encodeRequest (x : Nat) (target : Address) :
    EncodeMatchesRow.Statement (.encodeRequest x target) := ⟨⟨_, rfl⟩, by simp only [Instr.vector, Instr.row]; decide⟩

theorem EncodeMatchesRow.decodeFrame (x : Nat) (f : Frame) :
    EncodeMatchesRow.Statement (.decodeFrame x f) := ⟨⟨_, rfl⟩, by simp only [Instr.vector, Instr.row]; decide⟩

theorem EncodeMatchesRow.push (x : Nat) (f : Frame) :
    EncodeMatchesRow.Statement (.push x f) := ⟨⟨_, rfl⟩, by simp only [Instr.vector, Instr.row]; decide⟩

theorem EncodeMatchesRow.tick :
    EncodeMatchesRow.Statement .tick := ⟨⟨_, rfl⟩, by simp only [Instr.vector, Instr.row]; decide⟩

theorem EncodeMatchesRow.linkResolve :
    EncodeMatchesRow.Statement .linkResolve := ⟨⟨_, rfl⟩, by simp only [Instr.vector, Instr.row]; decide⟩

theorem EncodeMatchesRow.reset (x : Nat) :
    EncodeMatchesRow.Statement (.reset x) := ⟨⟨_, rfl⟩, by simp only [Instr.vector, Instr.row]; decide⟩

end Sys2Proof.Laws
end

