-- ==== Sys2Proof/Laws/Run.lean ====
section
/-! SUPPORT. Laws/Run.lean: what the ends of runs are (rule R321), and when a host drains a queue (rules R304, R322). -/

namespace Sys2Proof.Machine

/-- On a quiescent link nobody transmits, the lines are undriven, the receive buffers are zero and the strobe reads 0. -/
theorem quiescent_lines (s : State) (hi : Inv s) (hq : Quiescent s) :
    (∀ v ∈ s.devs, v.mode = .receiving ∧ v.pin_dir = .input ∧ ∀ o, v.raw.bit o = false) ∧ s.line_strobe = false := by
  have dev : ∀ v ∈ s.devs, v.mode = .receiving ∧ v.pin_dir = .input ∧ ∀ o, v.raw.bit o = false := by
    intro v hv
    have hs := hi.device_safe v hv
    have hm : v.mode = .receiving := by
      cases h : v.mode with
      | receiving => rfl
      | transmitting => exact absurd (hq v hv).1 (hs.transmitting h).2.2.2
    exact ⟨hm, (hs.receiving hm).1, fun o => hs.tail_zero o (by rw [(hq v hv).2.2]; exact Nat.zero_le o)⟩
  refine ⟨dev, ?_⟩
  cases h : s.line_strobe with
  | false => rfl
  | true =>
    obtain ⟨v, hv, hp, -⟩ := hi.link_safe.strobe_driven.1 h
    rw [(dev v hv).2.1] at hp
    cases hp

/-- A run has at most one last start of a transmission. -/
theorem lastStart_unique (n : Nat) (s : State) (m m' : Nat) (h : LastStart n s m) (h' : LastStart n s m') : m = m' := by
  obtain ⟨hm, ⟨t, ht, hst⟩, hl⟩ := h
  obtain ⟨hm', ⟨t', ht', hst'⟩, hl'⟩ := h'
  rcases Nat.lt_trichotomy m m' with h | h | h
  · exact absurd hst' (hl m' t' h hm' ht')
  · exact h
  · exact absurd hst (hl' m t h hm ht)

/-- A run has at most one end state. -/
theorem endState_unique (n : Nat) (s t t' : State) (h : EndState n s t) (h' : EndState n s t') : t = t' := by
  obtain ⟨-, m, e, hm, hme, -, ht, hq, hf⟩ := h
  obtain ⟨-, m', e', hm', hme', -, ht', hq', hf'⟩ := h'
  obtain rfl := lastStart_unique n s m m' hm hm'
  rcases Nat.lt_trichotomy e e' with h | h | h
  · exact absurd hq (hf' e t hme h ht)
  · subst h
    rw [ht] at ht'
    cases ht'
    rfl
  · exact absurd hq' (hf e' t' hme' h ht')

/-- With an unbounded queue every host drains: `Drains` is needed only with a finite `QUEUE_DEPTH` (rule R322). -/
theorem drains_of_unbounded (x n : Nat) (s : State)
    (h : ∀ (k : Nat) (t : State) (v : Device), Host.Core.run Sys2Proof.core k s = .next t → t.devs[x]? = some v →
      v.params.queue_depth = none) : Drains x n s := by
  intro k t v _ ht hv _
  rw [queueHasRoom, h k t v ht hv]

end Sys2Proof.Machine
end

