-- ==== Sys2Proof/Tests/Slice0.lean ====
section
/-! SUPPORT. Tests/Slice0.lean: small tests of the model (the vectors named `C-`, `S-`, `R-`, `T-`, `F-`, `X-` and `Z-` are those of
spec/95_test_vectors.md; the words are written out from the tables of rules R102 and R110 to R113), and for every statement with
hypotheses a state and operands that meet them. -/

namespace Sys2Proof.Tests

open Sys2Proof.Machine

/-- Configuration K1 of 95_test_vectors.md. -/
def k1 : Params := { path_len := 4, t_bit_hold := 1, t_pulse := 0, t_frame_hold := 4, line_faults := false }

/-- The parameters of a device in K1. -/
def p1 : DeviceParams := { t_abandon := 3, t_reasm := 1, queue_depth := none }

/-- A device of K1 after `RESET`. -/
def fresh : Device := Device.initial p1

/-- `ENCODE_REQUEST(7)` in K1 (vector C-11). -/
def q7 : Frame := [7, 0, 1, 0, 0, 0, 0, 0, 0, 0, 0, 0, 0, 0, 0]

/-- `ENCODE_DATA(FLOAT, "/t", 0x41BC0000)` in K1 (vector C-1). -/
def f1 : Frame := [0, 0, 2, 0x2F, 0x74, 0, 0, 0, 0, 0xBC, 0x41, 0, 0, 0, 0]

/-- A configured device of address `id` that receives, with `n` bits stored. -/
def rx (id : Address) (n : Nat) (m : Memory) : Device :=
  { fresh with configured := true, own_id := id, rx_enable := true, bit_offset := n, raw := m }

/-- The device `v` with an edge of level `d` pending. -/
def edge (d : Bool) (v : Device) : Device := { v with edge_pending := some d }

/-- A device that transmits `q7`, in phase `p`, with `w` ticks to wait, at bit `i`. -/
def tx (p : TxPhase) (w i : Nat) : Device :=
  { fresh with
    configured := true, mode := .transmitting, pin_dir := .output, tx_buf := Memory.ofBytes q7, tx_phase := p, tx_wait := w
    tx_index := i, strobe_out := p == .high, data_out := frameBit q7 i }

/-- A link of two devices with parameters `c`, whose strobe line agrees with device 0. -/
def link (c : Params) (a b : Device) : State :=
  { State.start c [] [] with devs := [a, b], line_strobe := a.pin_dir == .output && a.strobe_out }

/-- The outcome is a next state that satisfies `p`. -/
def after (o : Out) (p : State → Bool) : Bool :=
  match o with
  | .next t => p t
  | .fault _ => false
  | .refused _ => false

/-- The outcome is a next state whose device `x` satisfies `p`. -/
def devAfter (o : Out) (x : Nat) (p : Device → Bool) : Bool := after o fun t => (t.devs[x]?).any p

/-- The outcome is a refusal. -/
def isRefused (o : Out) : Bool :=
  match o with
  | .refused _ => true
  | .next _ => false
  | .fault _ => false

/-! ## Well-formedness -/

theorem test_wf_txBegin_short_frame : (Instr.txBegin 0 (zeros 14)).wellFormed k1 = false := by decide
theorem test_wf_decode_long_frame : (Instr.decodeFrame 0 (zeros 16)).wellFormed k1 = false := by decide
theorem test_wf_push_empty_frame : (Instr.push 0 []).wellFormed k1 = false := by decide
theorem test_wf_kind_path_field : (Instr.kindFloat 0 0 [0x2F, 0x74, 0] 0).wellFormed k1 = false := by decide
theorem test_wf_reserved_path_field : (Instr.kindReserved8 0 7 0 (zeros 5) 0).wellFormed k1 = false := by decide
theorem test_wf_send_float_of_33_bits : (Instr.send 0 [] 2 0x100000000).wellFormed k1 = false := by decide
theorem test_wf_encode_float_of_33_bits : (Instr.encodeData 0 2 [] 0x100000000).wellFormed k1 = false := by decide
theorem test_wf_send_endless_path (p : List Byte) (h : p.length = 4294967296) :
    (Instr.send 0 p 3 0).wellFormed k1 = false := by
  simp [Instr.wellFormed, pathFits, h]
theorem test_wf_send : (Instr.send 0 [0x2F, 0x74] 2 0xFFFFFFFF).wellFormed k1 = true := by decide

/-! ## Decoding: a word of every row -/

theorem test_decode_kindUnknown : decode k1 3 [0x00, 1, 0x34, 0x12, 0x2F, 0, 0, 0, 1, 0, 0, 0, 0, 0, 0, 0] =
    .ok (.kindUnknown 3 0x1234 [0x2F, 0, 0, 0] 1) := rfl
theorem test_decode_kindRequestOnly : decode k1 3 [0x01, 1, 7, 0, 0, 0, 0, 0, 0, 0, 0, 0, 0, 0, 0, 0] =
    .ok (.kindRequestOnly 3 7 [0, 0, 0, 0] 0) := rfl
theorem test_decode_kindFloat : decode k1 3 [0x02, 1, 0, 0, 0x2F, 0x74, 0, 0, 0, 0, 0xBC, 0x41, 0, 0, 0, 0] =
    .ok (.kindFloat 3 0 [0x2F, 0x74, 0, 0] 0x41BC0000) := rfl
theorem test_decode_kindDouble : decode k1 3 [0x03, 1, 0, 0, 0, 0, 0, 0, 0, 0, 0, 0, 0, 0x80, 0x37, 0x40] =
    .ok (.kindDouble 3 0 [0, 0, 0, 0] 0x4037800000000000) := rfl
theorem test_decode_kindInt64 : decode k1 3 [0x04, 1, 0, 0, 0, 0, 0, 0, 0, 0, 0, 0, 0, 0, 0, 0x80] =
    .ok (.kindInt64 3 0 [0, 0, 0, 0] 0x8000000000000000) := rfl
theorem test_decode_kindUint64 : decode k1 3 [0x05, 1, 0, 0, 0, 0, 0, 0, 0xEF, 0xCD, 0xAB, 0x89, 0x67, 0x45, 0x23, 0x01] =
    .ok (.kindUint64 3 0 [0, 0, 0, 0] 0x0123456789ABCDEF) := rfl
theorem test_decode_kindReserved6 : decode k1 3 [0x07, 1, 0, 0, 0, 0, 0, 0, 0, 0, 0, 0, 0, 0, 0, 0] =
    .ok (.kindReserved6 3 1 0 [0, 0, 0, 0] 0) := rfl
theorem test_decode_kindReserved8 : decode k1 3 [0x0D, 1, 0, 0, 0, 0, 0, 0, 0, 0, 0, 0, 0, 0, 0, 0] =
    .ok (.kindReserved8 3 5 0 [0, 0, 0, 0] 0) := rfl
theorem test_decode_kindReserved16 : decode k1 3 [0x1F, 1, 0, 0, 0, 0, 0, 0, 0, 0, 0, 0, 0, 0, 0, 0] =
    .ok (.kindReserved16 3 15 0 [0, 0, 0, 0] 0) := rfl
theorem test_decode_kindReserved32 : decode k1 3 [0x30, 1, 0, 0, 0, 0, 0, 0, 0, 0, 0, 0, 0, 0, 0, 0] =
    .ok (.kindReserved32 3 16 0 [0, 0, 0, 0] 0) := rfl
theorem test_decode_kindReserved64 : decode k1 3 [0x40, 1, 0, 0, 0, 0, 0, 0, 0, 0, 0, 0, 0, 0, 0, 0] =
    .ok (.kindReserved64 3 0 0 [0, 0, 0, 0] 0) := rfl
theorem test_decode_kindReserved128 : decode k1 3 [0x82, 1, 0, 0x80, 0, 0, 0, 0, 0, 0, 0, 0, 0, 0, 0, 0] =
    .ok (.kindReserved128 3 2 0x8000 [0, 0, 0, 0] 0) := rfl
theorem test_decode_sample_1 : decode k1 3 [0b01110, 2] = .ok (.sample 3 true) := rfl
theorem test_decode_sample_0 : decode k1 3 [0b01010, 2] = .ok (.sample 3 false) := rfl
theorem test_decode_edgeOverrun : decode k1 3 [0b01111, 2] = .ok (.edgeOverrun 3 true) := rfl
theorem test_decode_edgeMasked : decode k1 3 [0b01001, 2] = .ok (.edgeMasked 3 false) := rfl
theorem test_decode_noedgeLow : decode k1 3 [0b00111, 2] = .ok (.noedgeLow 3) := rfl
theorem test_decode_noedgeFall : decode k1 3 [0b10010, 2] = .ok (.noedgeFall 3) := rfl
theorem test_decode_noedgeHigh : decode k1 3 [0b11101, 2] = .ok (.noedgeHigh 3) := rfl
theorem test_decode_reasmAcceptSelf : decode k1 3 [0b1100, 3] = .ok (.reasmAcceptSelf 3) := rfl
theorem test_decode_reasmAcceptCoord : decode k1 3 [0b1010, 3] = .ok (.reasmAcceptCoord 3) := rfl
theorem test_decode_reasmReject : decode k1 3 [0b1001, 3] = .ok (.reasmReject 3) := rfl
theorem test_decode_reasmAbandon : decode k1 3 [0b0111, 3] = .ok (.reasmAbandon 3) := rfl
theorem test_decode_reasmNop : decode k1 3 [0b0110, 3] = .ok (.reasmNop 3) := rfl
theorem test_decode_txBegin : decode k1 3 (0b00010 :: 4 :: q7) = .ok (.txBegin 3 q7) := rfl
theorem test_decode_txData : decode k1 3 [0b00111, 4] = .ok (.txData 3) := rfl
theorem test_decode_txRise : decode k1 3 [0b01011, 4] = .ok (.txRise 3) := rfl
theorem test_decode_txFall : decode k1 3 [0b01110, 4] = .ok (.txFall 3) := rfl
theorem test_decode_txNext : decode k1 3 [0b10010, 4] = .ok (.txNext 3) := rfl
theorem test_decode_txFramehold : decode k1 3 [0b10011, 4] = .ok (.txFramehold 3) := rfl
theorem test_decode_txEnd : decode k1 3 [0b10110, 4] = .ok (.txEnd 3) := rfl
theorem test_decode_txWaitSetup : decode k1 3 [0b01001, 4] = .ok (.txWaitSetup 3) := rfl
theorem test_decode_txWaitHigh : decode k1 3 [0b01100, 4] = .ok (.txWaitHigh 3) := rfl
theorem test_decode_txWaitLow : decode k1 3 [0b10001, 4] = .ok (.txWaitLow 3) := rfl
theorem test_decode_txWaitFramehold : decode k1 3 [0b10100, 4] = .ok (.txWaitFramehold 3) := rfl
theorem test_decode_txUnreachable : decode k1 3 [0b11101, 4] = .ok (.txUnreachable 3) := rfl
theorem test_decode_configure : decode k1 3 [0b00, 5, 0x34, 0x12] = .ok (.configure 3 0x1234) := rfl
theorem test_decode_send : decode k1 3 [0b01, 5, 2, 0, 0, 0xBC, 0x41, 0, 0, 0, 0, 2, 0, 0, 0, 0x2F, 0x74] =
    .ok (.send 3 [0x2F, 0x74] 2 0x41BC0000) := rfl
theorem test_decode_sendRequest : decode k1 3 [0b10, 5, 7, 0] = .ok (.sendRequest 3 7) := rfl
theorem test_decode_poll : decode k1 3 [0b11, 5] = .ok (.poll 3) := rfl
theorem test_decode_encodeData : decode k1 3 [0, 6, 4, 0xFE, 0xFF, 0xFF, 0xFF, 0xFF, 0xFF, 0xFF, 0xFF, 1, 0, 0, 0, 0x2F] =
    .ok (.encodeData 3 4 [0x2F] 0xFFFFFFFFFFFFFFFE) := rfl
theorem test_decode_encodeRequest : decode k1 3 [1, 6, 0xFF, 0xFF] = .ok (.encodeRequest 3 0xFFFF) := rfl
theorem test_decode_decodeFrame : decode k1 3 (2 :: 6 :: f1) = .ok (.decodeFrame 3 f1) := rfl
theorem test_decode_push : decode k1 3 (3 :: 6 :: q7) = .ok (.push 3 q7) := rfl
theorem test_decode_tick : decode k1 0 [0, 7] = .ok .tick := rfl
theorem test_decode_linkResolve : decode k1 0 [1, 7] = .ok .linkResolve := rfl
theorem test_decode_reset : decode k1 3 [2, 7] = .ok (.reset 3) := rfl

theorem test_decode_untagged_word : decode k1 0 [0x13, 0] = .ok (.txFramehold 0) := rfl
theorem test_decode_refuses_no_format_byte : decode k1 3 [0b01110] = .error .truncated := rfl
theorem test_decode_refuses_a_short_frame : decode k1 3 (0 :: 4 :: zeros 14) = .error .truncated := rfl
theorem test_decode_refuses_an_unknown_format : decode k1 3 [0, 8] = .error (.reservedFormat 8) := rfl
theorem test_decode_refuses_a_sixth_bit : decode k1 3 [0b101110, 2] = .error (.noRow 0b101110) := rfl
theorem test_decode_refuses_a_wide_float : decode k1 3 [1, 5, 2, 0, 0, 0, 0, 1, 0, 0, 0, 0, 0, 0, 0] = .error .floatTooWide := rfl

/-- Rule R124: in every format with a table of all its vectors, each vector selects exactly one row. -/
theorem test_samp_rows_partition : ∀ w : Fin 32, (Format.samp.rows.filter (·.matches (BitVec.ofNat 8 w))).length = 1 := by decide
theorem test_rvec_rows_partition : ∀ w : Fin 16, (Format.rvec.rows.filter (·.matches (BitVec.ofNat 8 w))).length = 1 := by decide
theorem test_txph_rows_partition : ∀ w : Fin 32, (Format.txph.rows.filter (·.matches (BitVec.ofNat 8 w))).length = 1 := by decide
theorem test_kind_rows_partition : ∀ w : BitVec 8, (Format.kind.rows.filter (·.matches w)).length = 1 := by decide

/-! ## One step of each operation, against the vectors of 95_test_vectors.md -/

/-- Vector S-3. -/
theorem test_sample_sets_the_bit :
    devAfter (exec (.sample 1 true) (link k1 (tx .high 0 7) (edge true (rx 7 7 [(0, 0x07)])))) 1
      (fun v => v.raw == [(0, 0x87)] && v.bit_offset == 8 && v.idle_ticks == 0) = true := by decide
/-- Vector S-6, and rule R42: the buffer is complete. -/
theorem test_sample_last_bit :
    devAfter (exec (.sample 1 true) (link k1 (tx .high 0 119) (edge true (rx 7 119 [])))) 1
      (fun v => v.raw == [(14, 0x80)] && rxState k1 v == .complete) = true := by decide
/-- Vector S-8. -/
theorem test_edgeOverrun_keeps_the_frame :
    devAfter (exec (.edgeOverrun 1 false) (link k1 (tx .high 0 0) (edge false { rx 7 120 [(14, 0x80)] with idle_ticks := 2 }))) 1
      (fun v => v.raw == [(14, 0x80)] && v.bit_offset == 120 && v.idle_ticks == 0) = true := by decide
/-- Vector S-9. -/
theorem test_edgeMasked_keeps_idle_ticks :
    devAfter (exec (.edgeMasked 1 true) (link k1 (tx .high 0 0) (edge true { fresh with idle_ticks := 2 }))) 1
      (fun v => v.idle_ticks == 2 && v.edge_pending.isNone) = true := by decide
/-- Vector S-10: the mask wins over the overrun. -/
theorem test_mask_wins_over_overrun :
    fetchTurn (link k1 (tx .high 0 0) (edge true { rx 7 120 [] with rx_enable := false })) (edgeTurn 1) =
      .instr (.edgeMasked 1 true) := by decide

/-- Vector R-5. -/
theorem test_accept_reads_both_address_bytes :
    devAfter (exec (.reasmAcceptSelf 0) (link k1 (rx 263 120 [(0, 7), (1, 1), (2, 1)]) fresh)) 0
      (fun v => v.queue == [[7, 1, 1] ++ zeros 12] && v.raw == [] && v.bit_offset == 0) = true := by decide
/-- Vector R-8. -/
theorem test_coordinator_accepts_data :
    devAfter (exec (.reasmAcceptCoord 0) (link k1 (rx 0 120 [(0, 9), (2, 4)]) fresh)) 0
      (fun v => v.queue == [[9, 0, 4] ++ zeros 12]) = true := by decide
/-- Vector R-18. -/
theorem test_accept_with_a_full_queue :
    devAfter (exec (.reasmAcceptCoord 0)
      (link k1 { rx 0 120 [(2, 2)] with queue := [f1], params := { p1 with queue_depth := some 1 } } fresh)) 0
      (fun v => v.queue == [f1] && v.q_overflow && v.bit_offset == 0) = true := by decide
/-- Vector R-9. -/
theorem test_reject_data_at_a_nonzero_id :
    fetchTurn (link k1 (rx 7 120 [(0, 7), (2, 2)]) fresh) (reasmTurn 0) = .instr (.reasmReject 0) := by decide
/-- Vector R-16. -/
theorem test_reject_reports :
    after (exec (.reasmReject 0) (link k1 { rx 3 120 [(0, 7), (2, 1)] with idle_ticks := 3 } fresh))
      (fun t => t.reports == [.drop 0 .filterReject]) = true := by decide
/-- Vector R-17. -/
theorem test_abandon_one_bit_short :
    devAfter (exec (.reasmAbandon 0) (link k1 { rx 7 119 [(0, 7), (2, 1)] with idle_ticks := 3 } fresh)) 0
      (fun v => v.raw == [] && v.bit_offset == 0 && v.queue == []) = true := by decide
/-- Rule R11: two devices of one link with their own `T_ABANDON`. -/
theorem test_each_device_has_its_own_timeout :
    let s := link k1 { rx 7 37 [] with idle_ticks := 3 }
      { rx 3 37 [] with idle_ticks := 3, params := { p1 with t_abandon := 4 } }
    fetchTurn s (reasmTurn 0) = .instr (.reasmAbandon 0) ∧ fetchTurn s (reasmTurn 1) = .instr (.reasmNop 1) := by decide
/-- Vector R-13. -/
theorem test_nop_one_tick_early :
    fetchTurn (link k1 { rx 7 37 [(0, 7)] with idle_ticks := 2 } fresh) (reasmTurn 0) = .instr (.reasmNop 0) := by
  decide

/-- Vector T-12, after the host call of rule R224. -/
theorem test_txBegin_discards_a_partial_frame :
    after (exec (.txBegin 0 q7) (link k1 (rx 0 37 [(0, 7)]) fresh))
      (fun t => t.reports == [.drop 0 .txAbandon] && t.devs.head? == some (tx .load 0 0 |> fun v => { v with data_out := false })) =
        true := by
  decide
/-- Rule R192: a frame that no encoder builds (kind 0) is no operand. -/
theorem test_txBegin_refuses_other_bytes :
    isRefused (exec (.txBegin 0 (zeros 15)) (link k1 (rx 0 0 []) fresh)) = true ∧ builtByCodec k1 f1 = true := by decide
/-- Rule R192: `TX_BEGIN` is no turn of its own. -/
theorem test_txBegin_is_no_turn :
    fetchTurn (link k1 (rx 0 0 []) fresh) (.op .txph 0 0 q7) = .internal (.txBegin 0 q7) := by decide
/-- Vector T-11. -/
theorem test_txData_bit_2_of_07 :
    devAfter (exec (.txData 0) (link k1 (tx .load 0 2) fresh)) 0 (fun v => v.data_out && v.tx_wait == 1) = true := by
  decide
/-- Vector T-11. -/
theorem test_txData_bit_3_of_07 :
    devAfter (exec (.txData 0) (link k1 (tx .load 0 3) fresh)) 0 (fun v => !v.data_out) = true := by decide
/-- Vector X-7. -/
theorem test_txRise_delivers_the_bit :
    after (exec (.txRise 0) (link k1 (tx .setup 0 2) fresh))
      (fun t => t.devs.map (·.edge_pending) == [none, some true] && t.line_strobe) = true := by decide
/-- Vector X-8. -/
theorem test_txFall_delivers_nothing :
    after (exec (.txFall 0) (link k1 (tx .high 0 2) fresh))
      (fun t => t.devs.map (·.edge_pending) == [none, none] && !t.line_strobe && t.line_data) = true := by decide
/-- Vector T-8. -/
theorem test_txNext_to_the_last_bit :
    devAfter (exec (.txNext 0) (link k1 (tx .low 0 118) fresh)) 0 (fun v => v.tx_index == 119) = true := by decide
/-- Vector T-9. -/
theorem test_txFramehold_after_the_last_bit :
    devAfter (exec (.txFramehold 0) (link k1 (tx .low 0 119) fresh)) 0
      (fun v => v.tx_index == 120 && v.tx_wait == 4 && v.pin_dir == .output) = true := by decide
/-- Rule R198. -/
theorem test_txEnd_arms_reception :
    devAfter (exec (.txEnd 0) (link k1 (tx .framehold 0 120) fresh)) 0
      (fun v => v.pin_dir == .input && v.rx_enable && v.mode == .receiving && v.tx_phase == .off) = true := by decide
/-- Vector T-5. -/
theorem test_txWait_in_setup :
    fetchTurn (link k1 (tx .setup 1 0) fresh) (txTurn 0) = .instr (.txWaitSetup 0) := by decide

/-- Vector F-4. -/
theorem test_configure_keeps_the_queue :
    devAfter (exec (.configure 0 0) (link k1 { rx 7 37 [(0, 7)] with queue := [f1] } fresh)) 0
      (fun v => v.own_id == 0 && v.bit_offset == 0 && v.raw == [] && v.queue == [f1]) = true := by decide
/-- Vector F-5. -/
theorem test_configure_refused_while_transmitting :
    isRefused (exec (.configure 0 1) (link k1 (tx .load 0 0) fresh)) = true := by decide
/-- Rule R223: `SEND` starts the transmission of its frame. -/
theorem test_send_loads_the_frame :
    devAfter (exec (.send 0 [0x2F, 0x74] 2 0x41BC0000) (link k1 (rx 5 0 []) fresh)) 0
      (fun v => v.tx_buf.bytes 15 == f1 && v.tx_phase == .load) = true := by decide
/-- Vector F-10. -/
theorem test_send_refuses_a_zero_byte :
    isRefused (exec (.send 0 [0x2F, 0] 2 0) (link k1 (rx 5 0 []) fresh)) = true := by decide
/-- Rule R224. -/
theorem test_sendRequest_loads_the_request :
    devAfter (exec (.sendRequest 0 7) (link k1 (rx 0 0 []) fresh)) 0 (fun v => v.tx_buf.bytes 15 == q7) = true := by decide
/-- Vector X-9. -/
theorem test_sendRequest_refused_by_contention :
    isRefused (exec (.sendRequest 1 7) (link k1 (tx .load 0 0) (rx 5 0 []))) = true := by decide
/-- Vector F-8. -/
theorem test_poll_returns_the_oldest :
    after (exec (.poll 0) (link k1 { rx 5 0 [] with queue := [f1, q7] } fresh))
      (fun t => t.reports == [.polled 0 (some f1)] && t.devs.head?.any (·.queue == [q7])) = true := by decide
/-- Vector F-9. -/
theorem test_poll_does_not_reassemble :
    after (exec (.poll 0) (link k1 (rx 7 120 [(0, 7), (2, 1)]) fresh))
      (fun t => t.reports == [.polled 0 none]) = true := by decide
/-- Vector F-11. -/
theorem test_push_appends :
    devAfter (exec (.push 0 q7) (link k1 { rx 7 120 [(0, 7), (2, 1)] with queue := [f1] } fresh)) 0
      (fun v => v.queue == [f1, q7]) = true := by decide

/-- Rule R228: `PUSH` is no turn of its own. -/
theorem test_push_is_no_turn :
    isRefused (step { link k1 (rx 7 120 [(0, 7), (2, 1)]) fresh with sched := [turnOf (.push 0 q7)] }) = true := by decide

/-- Vector C-9. -/
theorem test_encodeData_cuts_the_path :
    after (exec (.encodeData 0 2 [0x2F, 0x61, 0x62, 0x63] 0x7FC00001) (link k1 fresh fresh))
      (fun t => t.reports == [.encoded 0 [0, 0, 2, 0x2F, 0x61, 0x62, 0, 0x01, 0x00, 0xC0, 0x7F, 0, 0, 0, 0]]) = true := by decide
/-- Vector C-6. -/
theorem test_encodeData_uint64 :
    after (exec (.encodeData 0 5 [0x2F, 0x62] 0x0123456789ABCDEF) (link k1 fresh fresh))
      (fun t => t.reports ==
        [.encoded 0 [0, 0, 5, 0x2F, 0x62, 0, 0, 0xEF, 0xCD, 0xAB, 0x89, 0x67, 0x45, 0x23, 0x01]]) = true := by decide
/-- Vector C-12. -/
theorem test_encodeRequest_byte_order :
    after (exec (.encodeRequest 0 0x1234) (link k1 fresh fresh))
      (fun t => t.reports == [.encoded 0 ([0x34, 0x12, 1] ++ zeros 12)]) = true := by decide
/-- Vector C-15. -/
theorem test_decode_float_ignores_the_upper_bytes :
    after (exec (.decodeFrame 0 [0, 0, 2, 0x41, 0x42, 0x43, 0x44, 0, 0, 0xBC, 0x41, 0xAA, 0xBB, 0xCC, 0xDD])
      (link k1 fresh fresh))
      (fun t => t.reports == [.decoded 0 ⟨0, .float, [0x41, 0x42, 0x43, 0x44], some (.bits32 0x41BC0000)⟩]) = true := by decide
/-- Vector C-16. -/
theorem test_decode_reserved_kind :
    after (exec (.decodeFrame 0 [0, 0, 7, 0x2F, 0, 0x5A, 0x5A, 1, 0, 0, 0, 0, 0, 0, 0]) (link k1 fresh fresh))
      (fun t => t.reports == [.decoded 0 ⟨0, .reserved 7, [0x2F], none⟩]) = true := by decide
/-- Vector C-18, read as the kind row `INT64`; the number is -2^63. -/
theorem test_kindInt64_sign :
    after (exec (.kindInt64 0 0 [0x2F, 0x74, 0, 0] 0x8000000000000000) (link k1 fresh fresh))
      (fun t => t.reports == [.decoded 0 ⟨0, .int64, [0x2F, 0x74], some (.bits64 0x8000000000000000)⟩]) = true ∧
    int64Number 0x8000000000000000 = -9223372036854775808 := by decide

/-- Vectors X-1 and X-2. -/
theorem test_tick_counts :
    devAfter (exec .tick (link k1 { tx .setup 2 0 with idle_ticks := 1 } { rx 7 0 [] with idle_ticks := 3 })) 0
      (fun v => v.tx_wait == 1 && v.idle_ticks == 2 && v.reasm_wait == 1) = true ∧
    devAfter (exec .tick (link k1 (tx .setup 2 0) { rx 7 0 [] with idle_ticks := 3 })) 1 (fun v => v.idle_ticks == 3) = true := by
  decide
/-- Vectors X-3, X-4 and X-5. -/
theorem test_tick_waits :
    isRefused (exec .tick (link k1 { rx 7 0 [] with reasm_wait := 1 } fresh)) = true ∧
    isRefused (exec .tick (link k1 (edge true (rx 7 0 [])) fresh)) = true ∧
    isRefused (exec .tick (link k1 (tx .setup 0 0) fresh)) = true := by decide
/-- Vector X-6. -/
theorem test_linkResolve_undriven :
    after (exec .linkResolve { link k1 fresh fresh with line_strobe := true })
      (fun t => !t.line_strobe && t.devs.all (·.edge_pending.isNone)) = true := by decide
/-- Vector X-10. -/
theorem test_reset_of_a_transmitter :
    after (exec (.reset 0) (link k1 (tx .high 1 36) (rx 7 36 [])))
      (fun t => t.devs == [fresh, rx 7 36 []] && !t.line_strobe) = true := by decide
/-- Vector X-11: the spurious edge runs as `EDGE_OVERRUN`. -/
theorem test_spurious_edge :
    after (applyLineFault 1 (.spurious true) (link { k1 with line_faults := true } fresh (rx 7 120 [])))
      (fun t => fetchTurn t (edgeTurn 1) == .instr (.edgeOverrun 1 true)) = true := by decide
/-- Rule R258 (b): from reset time passes first, then the reassemblers are due. -/
theorem test_step_from_reset :
    fetch State.reset = .instr .tick ∧ after (step State.reset) (fun t => fetch t == .instr (.reasmNop 0)) = true := by decide
/-- The word of `TX_FRAMEHOLD`, placed where the step fetches, runs. -/
theorem test_withFetchWord_runs :
    fetch (State.reset.withFetchWord 5 0x13) = .instr (.txFramehold 0) ∧
      devAfter (step (State.reset.withFetchWord 5 0x13)) 0 (fun v => v.tx_phase == .framehold) = true := by decide

/-! ## States that meet the hypotheses of the statements -/

/-- On a link whose second device listens, every device but the first listens. -/
theorem others_listen (c : Params) (a b : Device) (hb : b.pin_dir = .input) :
    ∀ y w, y ≠ 0 → (link c a b).devs[y]? = some w → w.pin_dir = .input :=
  (otherDrives_eq_false (link c a b) 0).1 (by simp [otherDrives, link, hb])

/-- The lines of `link` agree with their drivers. -/
theorem linkSafe_link (c : Params) (a b : Device) (hb : b.pin_dir = .input) : LinkSafe (link c a b) where
  one_driver := by
    have h0 : ∀ x v, (link c a b).devs[x]? = some v → v.pin_dir = .output → x = 0 := by
      intro x v hx hv
      by_cases h : x = 0
      · exact h
      · rw [others_listen c a b hb x v h hx] at hv
        cases hv
    intro x y v w hx hy hv hw
    rw [h0 x v hx hv, h0 y w hy hw]
  strobe_driven := by simp [link, hb]

/-- A transmitting device satisfies rule R59. -/
theorem safe_tx (p : TxPhase) (w i : Nat) (hp : p ≠ .off) : DeviceSafe k1 (tx p w i) := by
  constructor <;> simp [tx, fresh, Device.initial, hp]

/-- A transmitting device has legal values. -/
theorem ranges_tx (p : TxPhase) (w i : Nat) (h6 : p ≠ .code6) (h7 : p ≠ .code7) (hw : w ≤ 4)
    (hi : p ≠ .framehold ∧ i < 120 ∨ p = .framehold ∧ i = 120) : DeviceRanges k1 (tx p w i) where
  raw_wf := rfl
  raw_inside := by simp [tx, fresh, Device.initial]
  txbuf_wf := Memory.wf_ofBytes q7
  txbuf_inside := (by decide : ∀ cell ∈ Memory.ofBytes q7, cell.1 < k1.NB)
  phase_legal := ⟨h6, h7⟩
  index_in_cell := by
    intro h
    rcases hi with hi | hi
    · exact hi.2
    · rw [show (tx p w i).tx_phase = p from rfl, hi.1] at h
      simp at h
  index_in_hold := by
    intro h
    rcases hi with hi | hi
    · exact absurd h hi.1
    · exact hi.2
  index_le := by
    show i ≤ 120
    omega
  wait_le := hw
  strobe_high := by simp [tx]
  data_held := fun _ => (Memory.bit_ofBytes q7 i).symm
  transmitter_configured := fun _ => rfl
  idle_le := Nat.zero_le _
  reasm_le := Nat.zero_le _
  queue_le := fun _ h => nomatch h
  overflow_finite := fun h => nomatch h

/-- A receiving device whose buffer is empty, with or without a pending edge, satisfies rule R59 and has legal values. -/
theorem good_rx (e : Option Bool) :
    DeviceSafe k1 { rx 7 0 [] with edge_pending := e } ∧ DeviceRanges k1 { rx 7 0 [] with edge_pending := e } := by
  constructor
  · constructor <;> simp [rx, fresh, Device.initial]
  · constructor <;> simp [rx, fresh, Device.initial, p1, k1]
    · rfl
    · rfl

/-- A receiving device that has stored the first four bits of `q7`, with or without a pending edge. -/
theorem good_rx4 (e : Option Bool) :
    DeviceSafe k1 { rx 7 4 [(0, 7)] with edge_pending := e } ∧ DeviceRanges k1 { rx 7 4 [(0, 7)] with edge_pending := e } := by
  constructor
  · constructor
    · exact (by decide : 4 ≤ k1.N)
    · intro o ho
      have ho' : 4 ≤ o := ho
      show Memory.bit [(0, 7)] o = false
      by_cases h : o < 8
      · have : o = 4 ∨ o = 5 ∨ o = 6 ∨ o = 7 := by omega
        rcases this with rfl | rfl | rfl | rfl <;> rfl
      · have : byteOf o ≠ 0 := by simp only [byteOf]; omega
        simp [Memory.bit, Memory.read, Ne.symm this]
    all_goals simp [rx, fresh, Device.initial]
  · constructor <;> simp [rx, fresh, Device.initial, p1, k1, Params.NB]
    · decide
    · rfl

/-- A link in which a device transmits to an armed receiver. -/
theorem inv_sending (p : TxPhase) (w i : Nat) (b : Device) (h0 : p ≠ .off) (h6 : p ≠ .code6) (h7 : p ≠ .code7) (hw : w ≤ 4)
    (hi : p ≠ .framehold ∧ i < 120 ∨ p = .framehold ∧ i = 120) (hb : DeviceSafe k1 b ∧ DeviceRanges k1 b)
    (hp : b.pin_dir = .input) : Inv (link k1 (tx p w i) b) where
  layout_legal := (by decide : 1 ≤ k1.path_len)
  ndev_legal := Nat.le_refl 2
  device_safe := by
    intro v hv
    simp only [link, List.mem_cons, List.not_mem_nil, or_false] at hv
    rcases hv with rfl | rfl
    · exact safe_tx p w i h0
    · exact hb.1
  device_ranges := by
    intro v hv
    simp only [link, List.mem_cons, List.not_mem_nil, or_false] at hv
    rcases hv with rfl | rfl
    · exact ranges_tx p w i h6 h7 hw hi
    · exact hb.2
  link_safe := linkSafe_link k1 (tx p w i) b hp

/-- Device 0 has raised the strobe for bit 4 of `q7`; device 1 has stored four bits and has that edge pending. -/
def sending : State := link k1 (tx .high 0 4) (edge false (rx 7 4 [(0, 7)]))

theorem inv_sending_state : Inv sending :=
  inv_sending .high 0 4 _ (by decide) (by decide) (by decide) (by decide) (by decide) (good_rx4 (some false)) rfl

theorem test_witness_SampleStoresOneBit (n : Fin 120) (d : Bool) :
    (link k1 (tx .high 0 n) (edge d (rx 7 n []))).devs[1]? = some (edge d (rx 7 n [])) ∧
      (edge d (rx 7 n [])).raw.wf = true ∧ (edge d (rx 7 n [])).edge_pending = some d ∧ (rx 7 n []).rx_enable = true ∧
      (edge d (rx 7 n [])).bit_offset < k1.N :=
  ⟨rfl, rfl, rfl, rfl, n.isLt⟩

theorem test_witness_EdgeOverrunIgnoresTheBit (d : Bool) :
    (link k1 (tx .high 0 0) (edge d (rx 7 120 []))).devs[1]? = some (edge d (rx 7 120 [])) ∧
      (edge d (rx 7 120 [])).edge_pending = some d ∧ (edge d (rx 7 120 [])).rx_enable = true ∧
      (edge d (rx 7 120 [])).bit_offset = k1.N := ⟨rfl, rfl, rfl, rfl⟩

theorem test_witness_EdgeMaskedDiscardsTheEdge (d : Bool) :
    (link k1 (tx .high 0 0) (edge d fresh)).devs[1]? = some (edge d fresh) ∧
      (edge d fresh).edge_pending = some d ∧ (edge d fresh).rx_enable = false := ⟨rfl, rfl, rfl⟩

theorem test_witness_NoedgeChangesNothing : (link k1 (tx .low 1 0) (rx 7 1 [])).devs[1]? = some (rx 7 1 []) := rfl

theorem test_witness_EdgeContextSelectsItsCase :
    (∀ v ∈ [edge true fresh, edge false (rx 7 120 []), edge true (rx 7 119 []), edge true (rx 7 0 []), rx 7 0 []],
      (link k1 (tx .high 0 0) v).devs[1]? = some v ∧ v.bit_offset ≤ k1.N) ∧ (edge true (rx 7 0 [])).edge_pending = some true ∧
      (rx 7 0 []).edge_pending = none := by decide

theorem test_witness_SampledBitsAccumulate :
    (link k1 fresh (rx 7 0 [])).devs[1]? = some (rx 7 0 []) ∧ (rx 7 0 []).bit_offset = 0 ∧
      (rx 7 0 []).rx_enable = true ∧ (rx 7 0 []).raw.wf = true ∧ (∀ a, (rx 7 0 []).raw.read a = 0) ∧
      ((List.range k1.N).map (frameBit q7)).length ≤ k1.N ∧ q7.length = k1.NB :=
  ⟨rfl, rfl, rfl, rfl, fun _ => rfl, by decide, rfl⟩

theorem test_witness_AddressFilter :
    (f1.getD 2 0 ≠ 1 ∧ q7.getD 2 0 = 1 ∧ (q7.getD 0 0).toNat + 256 * (q7.getD 1 0).toNat ≠ 0) ∧
      ((0 :: q7.tail).getD 2 0 = 1 ∧ ((0 :: q7.tail).getD 0 0).toNat + 256 * ((0 :: q7.tail).getD 1 0).toNat = 0) ∧
      ((7 : Address) ≠ 0 ∧ (q7.getD 0 0).toNat + 256 * (q7.getD 1 0).toNat = (7 : Address).toNat ∧
        (q7.getD 0 0).toNat + 256 * (q7.getD 1 0).toNat ≠ (0x0700 : Address).toNat) := by decide

theorem test_witness_ReasmAcceptQueuesTheFrame :
    (rx 7 120 [(0, 7), (2, 1)]).bit_offset = k1.N ∧
      ((rx 7 120 [(0, 7), (2, 1)]).raw.read 0).toNat + 256 * ((rx 7 120 [(0, 7), (2, 1)]).raw.read 1).toNat =
        (rx 7 120 [(0, 7), (2, 1)]).own_id.toNat ∧ (rx 7 120 [(0, 7), (2, 1)]).raw.read 2 = 1 ∧
      (rx 0 120 [(2, 2)]).own_id = 0 ∧ (rx 0 120 [(2, 2)]).raw.read 2 ≠ 1 := by decide

/-- A device with a complete frame, one frame in its queue and room for `n`. -/
def holding (n : Nat) : Device := { rx 7 120 [] with queue := [f1], params := { p1 with queue_depth := some n } }

theorem test_witness_ReasmAcceptQueuesTheFrame_room :
    (∀ n, (rx 7 120 []).params.queue_depth = some n → (rx 7 120 []).queue.length < n) ∧
      (∀ n, (holding 2).params.queue_depth = some n → (holding 2).queue.length < n) ∧
      (∃ n, (holding 1).params.queue_depth = some n ∧ n ≤ (holding 1).queue.length) :=
  ⟨fun _ h => (nomatch h), fun _ h => by cases h; decide, 1, rfl, by decide⟩

theorem test_witness_ReasmRejectDiscardsTheFrame :
    (rx 3 120 [(0, 7), (2, 1)]).bit_offset = k1.N ∧
      frameAccepted (rx 3 120 [(0, 7), (2, 1)]).own_id ((rx 3 120 [(0, 7), (2, 1)]).raw.bytes k1.NB) = false := by decide

theorem test_witness_ReasmAbandonDiscardsThePart :
    ∀ n ∈ [1, 119], 0 < { rx 7 n [] with idle_ticks := 3 }.bit_offset ∧ { rx 7 n [] with idle_ticks := 3 }.bit_offset < k1.N ∧
      { rx 7 n [] with idle_ticks := 3 }.params.t_abandon ≤ { rx 7 n [] with idle_ticks := 3 }.idle_ticks := by decide

theorem test_witness_ReasmNopOnlyRestartsItsTimer :
    (∀ v ∈ [{ rx 7 0 [] with idle_ticks := 3 }, { rx 7 119 [] with idle_ticks := 2 }], v.bit_offset ≠ k1.N ∧
      ¬(0 < v.bit_offset ∧ v.bit_offset < k1.N ∧ v.params.t_abandon ≤ v.idle_ticks)) := by decide

theorem test_witness_ReasmSelectsItsCase : (link k1 (rx 7 120 []) fresh).devs[0]? = some (rx 7 120 []) := rfl

theorem test_witness_TxBeginEntersTransmission :
    (∀ n ∈ [0, 120], (link k1 (rx 0 n []) fresh).devs[0]? = some (rx 0 n []) ∧ 1 ≤ k1.path_len ∧
      (rx 0 n []).configured = true ∧ (rx 0 n []).mode = .receiving ∧ (rx 0 n []).tx_phase = .off) ∧
      (∀ y w, y ≠ 0 → (link k1 (rx 0 0 []) fresh).devs[y]? = some w → w.pin_dir = .input) ∧
      (∃ target, q7 = encodeRequestFrame k1 target) ∧
      ∃ (kind : Byte) (path : List Byte) (val : BitVec 64), (kind = 2 ∨ kind = 3 ∨ kind = 4 ∨ kind = 5) ∧
        (∀ b ∈ path, b ≠ 0) ∧ f1 = encodeDataFrame k1 kind path val :=
  ⟨by decide, others_listen _ _ _ rfl, ⟨7, by decide⟩, 2, [0x2F, 0x74], 0x41BC0000, by decide, by decide, by decide⟩

theorem test_witness_TxDataDrivesTheBit :
    (∀ i ∈ [0, 119], (link k1 (tx .load 0 i) fresh).devs[0]? = some (tx .load 0 i) ∧
      (tx .load 0 i).pin_dir = .output ∧ (tx .load 0 i).strobe_out = false ∧ (tx .load 0 i).tx_index < k1.N) ∧
      (∀ y w, y ≠ 0 → (link k1 (tx .load 0 0) fresh).devs[y]? = some w → w.pin_dir = .input) :=
  ⟨by decide, others_listen _ _ _ rfl⟩

theorem test_witness_TxRiseDeliversTheBit :
    ((link k1 (tx .setup 0 5) fresh).devs[0]? = some (tx .setup 0 5) ∧ (tx .setup 0 5).pin_dir = .output ∧
      (link k1 (tx .setup 0 5) fresh).line_strobe = false ∧ (tx .setup 0 5).tx_wait = 0) ∧
      (∀ y w, y ≠ 0 → (link k1 (tx .setup 0 5) fresh).devs[y]? = some w → w.pin_dir = .input) :=
  ⟨by decide, others_listen _ _ _ rfl⟩

theorem test_witness_TxFallEndsThePulse :
    ((link k1 (tx .high 0 5) fresh).devs[0]? = some (tx .high 0 5) ∧ (tx .high 0 5).pin_dir = .output ∧
      (tx .high 0 5).tx_phase = .high ∧ (tx .high 0 5).tx_wait = 0) ∧
      (∀ y w, y ≠ 0 → (link k1 (tx .high 0 5) fresh).devs[y]? = some w → w.pin_dir = .input) :=
  ⟨by decide, others_listen _ _ _ rfl⟩

theorem test_witness_TxNextGoesToTheNextBit :
    ∀ i ∈ [0, 118], (link k1 (tx .low 0 i) fresh).devs[0]? = some (tx .low 0 i) ∧ (tx .low 0 i).tx_phase = .low ∧
      (tx .low 0 i).tx_wait = 0 ∧ (tx .low 0 i).tx_index < k1.N - 1 := by decide

theorem test_witness_TxFrameholdHoldsTheLines :
    (link k1 (tx .low 0 119) fresh).devs[0]? = some (tx .low 0 119) ∧ (tx .low 0 119).tx_wait = 0 ∧
      (tx .low 0 119).tx_index = k1.N - 1 := by decide

theorem test_witness_TxEndReturnsToReceiving :
    ((link k1 (tx .framehold 0 120) fresh).devs[0]? = some (tx .framehold 0 120) ∧
      (tx .framehold 0 120).tx_phase = .framehold ∧ (tx .framehold 0 120).tx_wait = 0) ∧
      (∀ y w, y ≠ 0 → (link k1 (tx .framehold 0 120) fresh).devs[y]? = some w → w.pin_dir = .input) :=
  ⟨by decide, others_listen _ _ _ rfl⟩

theorem test_witness_TransmitterRows (p : TxPhase) (w i : Nat) :
    (link k1 (tx p w i) fresh).devs[0]? = some (tx p w i) ∧ (tx p w i).tx_phase = p ∧ (tx p w i).tx_wait = w ∧
      (tx p w i).tx_index = i ∧ q7.length = k1.NB := ⟨rfl, rfl, rfl, rfl, rfl⟩

theorem test_witness_ConfigureArmsReception :
    (link k1 (rx 7 37 []) fresh).devs[0]? = some (rx 7 37 []) ∧ (rx 7 37 []).mode = .receiving ∧
      (link k1 (tx .low 1 3) fresh).devs[0]? = some (tx .low 1 3) ∧ (tx .low 1 3).mode = .transmitting := by decide

theorem test_witness_SendAndSendRequest :
    ((link k1 (rx 5 0 []) fresh).devs[0]? = some (rx 5 0 []) ∧ 1 ≤ k1.path_len ∧ (rx 5 0 []).configured = true ∧
      (rx 5 0 []).mode = .receiving ∧ (rx 5 0 []).tx_phase = .off ∧ (∀ b ∈ [0x2F, 0x74], b ≠ (0 : Byte))) ∧
      (∀ y w, y ≠ 0 → (link k1 (rx 5 0 []) fresh).devs[y]? = some w → w.pin_dir = .input) :=
  ⟨by decide, others_listen _ _ _ rfl⟩

theorem test_witness_PollReturnsTheOldestFrame :
    (rx 5 0 []).configured = true ∧ (rx 5 0 []).queue = [] ∧ { rx 5 0 [] with queue := [f1, q7] }.queue = f1 :: [q7] ∧
      fresh.configured = false := by decide

theorem test_witness_PushAppendsAtTheBack :
    ((rx 7 120 [(0, 7), (2, 1)]).bit_offset = k1.N ∧ q7 = (rx 7 120 [(0, 7), (2, 1)]).raw.bytes k1.NB ∧
      frameAccepted (rx 7 120 [(0, 7), (2, 1)]).own_id q7 = true) ∧
      ∀ n, (rx 7 120 [(0, 7), (2, 1)]).params.queue_depth = some n → (rx 7 120 [(0, 7), (2, 1)]).queue.length < n :=
  ⟨by decide, fun _ h => nomatch h⟩

theorem test_witness_HostRefusalsAreExactlyTheListed :
    ((rx 5 0 []).mode = .receiving → (rx 5 0 []).tx_phase = .off) ∧
      ∃ y w, y ≠ 1 ∧ (link k1 (tx .load 0 0) (rx 5 0 [])).devs[y]? = some w ∧ w.pin_dir = .output :=
  ⟨by decide, 0, _, by decide, rfl, rfl⟩

theorem test_witness_EncodeDataBuildsTheFrame :
    (link k1 fresh fresh).devs[0]? = some fresh ∧ 1 ≤ k1.path_len ∧
      (∀ b ∈ [0x2F, 0x61, 0x62, 0x63], b ≠ (0 : Byte)) ∧ (0 : Byte) ∈ [0x2F, (0 : Byte)] ∧
      ¬((1 : Byte) = 2 ∨ (1 : Byte) = 3 ∨ (1 : Byte) = 4 ∨ (1 : Byte) = 5) := by decide

theorem test_witness_EncodeRequestBuildsTheFrame : (link k1 fresh fresh).devs[1]? = some fresh := rfl

theorem test_witness_DecodeReadsTheFields :
    (link k1 fresh fresh).devs[0]? = some fresh ∧ f1.length = k1.NB ∧ f1.getD 2 0 = 2 ∧
      q7.getD 2 0 = 1 := by decide

theorem test_witness_CodecRoundTrip :
    1 ≤ k1.path_len ∧ (∀ b ∈ [0x2F, 0x61, 0x62, 0x63], b ≠ (0 : Byte)) ∧ (0x7FC00001 : BitVec 64).toNat < 2 ^ 32 ∧
      ((5 : Byte), Kind.uint64) ∈ [((3 : Byte), Kind.double), (4, .int64), (5, .uint64)] := by decide

theorem test_witness_EncodersStayInTheFormat :
    1 ≤ k1.path_len ∧ f1 = encodeDataFrame k1 2 [0x2F, 0x74] 0x41BC0000 ∧ q7 = encodeRequestFrame k1 7 := by decide

theorem test_witness_KindRowsReadAsDecodeDoes :
    (link k1 fresh fresh).devs[0]? = some fresh ∧ [0x2F, 0x74, 0, (0 : Byte)].length = k1.path_len ∧
      255 = 128 + (127 : BitVec 7).toNat ∧ 6 = 6 + (0 : BitVec 1).toNat := by decide

theorem test_witness_TickAdvancesTheTimers :
    ∀ v ∈ (link k1 (tx .setup 1 0) (rx 7 0 [])).devs, v.edge_pending = none ∧ v.reasm_wait < v.params.t_reasm ∧ v.tx_phase ≠ .load ∧
      (v.tx_phase = .setup ∨ v.tx_phase = .high ∨ v.tx_phase = .framehold → v.tx_wait ≠ 0) ∧
      (v.tx_phase = .low → v.tx_index < k1.N → v.tx_wait ≠ 0) := by decide

theorem test_witness_LinkResolveByDrivers :
    (∀ v ∈ (link k1 fresh fresh).devs, v.pin_dir = .input) ∧
      (∀ y w, y ≠ 0 → (link k1 (tx .high 0 0) fresh).devs[y]? = some w → w.pin_dir = .input) ∧
      (tx .high 0 0).pin_dir = .output ∧ (link k1 (tx .load 0 0) (tx .load 0 0)).devs[1]? = some (tx .load 0 0) :=
  ⟨by decide, others_listen _ _ _ rfl, rfl, rfl⟩

theorem test_witness_ResetPutsTheDeviceInItsInitialState :
    LinkSafe (link k1 (tx .high 0 0) (rx 7 0 [])) ∧
      (∀ y w, y ≠ 0 → (link k1 (tx .high 0 0) (rx 7 0 [])).devs[y]? = some w → w.pin_dir = .input) ∧
      (∃ y w, y ≠ 1 ∧ (link k1 (tx .high 0 0) (rx 7 0 [])).devs[y]? = some w ∧ w.pin_dir = .output) :=
  ⟨linkSafe_link _ _ _ rfl, others_listen _ _ _ rfl, 0, _, by decide, rfl, rfl⟩

theorem test_witness_LineFaultsOnlyTouchTheEdge :
    k1.line_faults = false ∧ { k1 with line_faults := true }.line_faults = true ∧ (rx 7 0 []).pin_dir = .input ∧
      (rx 7 0 []).edge_pending = none ∧ (edge true (rx 7 0 [])).edge_pending = some true := by decide

theorem test_witness_StepRunsTheDecodedInstruction :
    chooseTurn { link k1 (rx 7 0 []) (rx 0 0 []) with sched := [reasmTurn 0, tickTurn] } = (.op .rvec 0 0 [], [tickTurn]) ∧
      decode k1 0 (turnBytes { link k1 (rx 7 0 []) (rx 0 0 []) with sched := [reasmTurn 0, tickTurn] } .rvec 0 0 []) =
        .ok (.reasmNop 0) ∧
      preemptingTurn (link k1 (rx 7 0 []) (rx 0 0 [])) (reasmTurn 0) = none ∧
      preemptingTurn (link k1 (edge true (rx 7 0 [])) (rx 0 0 [])) (reasmTurn 0) = some (edgeTurn 0) :=
  ⟨by decide, rfl, by decide, by decide⟩

theorem test_witness_PendingEdgeGoesFirst :
    { sending with sched := [reasmTurn 1] }.devs[1]? = some (edge false (rx 7 4 [(0, 7)])) ∧
      (edge false (rx 7 4 [(0, 7)])).edge_pending.isSome = true ∧
      { sending with sched := [reasmTurn 1] }.sched = .op .rvec 1 0 [] :: [] ∧
      { sending with sched := [tickTurn] }.sched = tickTurn :: [] ∧ sending.sched = [] := by decide

theorem test_witness_DecodeEncode :
    (Instr.send 3 [0x2F, 0x74] 2 0xFFFFFFFF).wellFormed k1 = true ∧ (Instr.txBegin 3 q7).wellFormed k1 = true ∧
      (Instr.kindReserved128 3 127 0xFFFF [1, 2, 3, 4] 0).wellFormed k1 = true := by decide

theorem test_witness_DecodedIsWellFormed : decode k1 3 [0b10110, 4, 0xFF] = .ok (.txEnd 3) := rfl

theorem test_witness_CanonicalBuffersAreEqual :
    Memory.wf [(0, 7), (2, 1)] = true ∧ Memory.wf (Memory.ofBytes q7) = true ∧
      ∀ a, Memory.read [(0, 7), (2, 1)] a = (Memory.ofBytes q7).read a := ⟨by decide, by decide, fun _ => rfl⟩

theorem test_witness_InvariantKept : Inv sending ∧ ∃ t, step sending = .next t := ⟨inv_sending_state, _, rfl⟩

theorem test_witness_TimeAdvances :
    Inv sending ∧ TimingLegal sending ∧ sending.sched = [] := ⟨inv_sending_state, ⟨by decide, by decide⟩, rfl⟩

theorem test_witness_ParametersNeverChange : ∃ t, step (link k1 (tx .setup 1 0) (rx 7 0 [])) = .next t := ⟨_, rfl⟩

theorem test_witness_BitOffsetMoves :
    (∃ t w, exec (.sample 1 false) sending = .next t ∧ t.devs[1]? = some w ∧ w.bit_offset = 5) ∧
      (∃ t w, exec (.reasmReject 0) (link k1 (rx 3 120 [(0, 7), (2, 1)]) fresh) = .next t ∧ t.devs[0]? = some w ∧
        w.bit_offset = 0) :=
  ⟨⟨_, _, rfl, rfl, rfl⟩, _, _, rfl, rfl, rfl⟩

theorem test_witness_ModeMoves :
    (∃ t w, exec (.sendRequest 0 7) (link k1 (rx 0 0 []) fresh) = .next t ∧ t.devs[0]? = some w ∧
        w.mode = .transmitting) ∧
      (∃ t w, exec (.txEnd 0) (link k1 (tx .framehold 0 120) fresh) = .next t ∧ t.devs[0]? = some w ∧
        w.mode = .receiving) :=
  ⟨⟨_, _, rfl, rfl, rfl⟩, _, _, rfl, rfl, rfl⟩

theorem test_witness_QueueMoves :
    (∃ t w, step { link k1 (rx 7 120 [(0, 7), (2, 1)]) fresh with sched := [reasmTurn 0] } = .next t ∧ t.devs[0]? = some w ∧
        w.queue = [q7]) ∧
      (∃ t w, exec (.push 0 q7) (link k1 (rx 7 120 [(0, 7), (2, 1)]) fresh) = .next t ∧ t.devs[0]? = some w ∧
        w.queue = [q7]) ∧
      (∃ t w, exec (.poll 0) (link k1 { rx 7 0 [] with queue := [f1, q7] } fresh) = .next t ∧ t.devs[0]? = some w ∧
        w.queue = [q7]) :=
  ⟨⟨_, _, rfl, rfl, rfl⟩, ⟨_, _, rfl, rfl, rfl⟩, _, _, rfl, rfl, rfl⟩

theorem test_witness_OtherDevicesSeeOnlyTheLines :
    ∃ t w, exec (.txRise 0) (link k1 (tx .setup 0 1) (rx 7 1 [(0, 1)])) = .next t ∧ Instr.txRise 0 ≠ .tick ∧
      (Instr.dev (.txRise 0) = 1 → Instr.txRise 0 = .linkResolve) ∧
      (link k1 (tx .setup 0 1) (rx 7 1 [(0, 1)])).devs[1]? = some (rx 7 1 [(0, 1)]) ∧ t.devs[1]? = some w ∧
      w.edge_pending = some true :=
  ⟨_, _, rfl, by decide, by decide, rfl, rfl, rfl⟩

theorem test_witness_AtMostOneDropInAStep :
    ∃ t, step { link k1 (rx 3 120 [(0, 7), (2, 1)]) fresh with sched := [reasmTurn 0] } = .next t ∧
      t.reports = [.drop 0 .filterReject] := ⟨_, rfl, rfl⟩

theorem test_witness_UnconfiguredDeviceIsInert (d : Bool) :
    (link k1 (tx .high 0 0) (edge d fresh)).devs[1]? = some (edge d fresh) ∧
      (edge d fresh).configured = false ∧ DeviceSafe k1 (edge d fresh) ∧
      (edge d fresh).edge_pending = some d := by
  refine ⟨rfl, rfl, ?_, rfl⟩
  constructor <;> simp [edge, fresh, Device.initial]

theorem test_witness_TransmissionTakesItsTime_begin :
    ∃ t w, exec (.txBegin 0 q7) (link k1 (rx 0 0 []) (rx 7 0 [])) = .next t ∧ t.devs[0]? = some w := ⟨_, _, rfl, rfl⟩

theorem test_witness_TransmissionTakesItsTime_step :
    Inv (link k1 (tx .low 1 119) (rx 7 0 [])) ∧ ∃ t w, step (link k1 (tx .low 1 119) (rx 7 0 [])) = .next t ∧
      t.now = 1 ∧ t.devs[0]? = some w ∧ (tx .low 1 119).mode = .transmitting ∧ w.mode = .transmitting :=
  ⟨inv_sending .low 1 119 _ (by decide) (by decide) (by decide) (by decide) (by decide) (good_rx none) rfl,
    _, _, rfl, rfl, rfl, rfl, rfl⟩

theorem test_witness_TransmissionTakesItsTime_rise (i : Fin 120) :
    Inv (link k1 (tx .setup 0 i) (rx 7 0 [])) ∧ (link k1 (tx .setup 0 i) (rx 7 0 [])).devs[0]? = some (tx .setup 0 i) ∧
      ∃ t, exec (.txRise 0) (link k1 (tx .setup 0 i) (rx 7 0 [])) = .next t :=
  ⟨inv_sending .setup 0 i _ (by decide) (by decide) (by decide) (by decide) (.inl ⟨by decide, i.isLt⟩) (good_rx none) rfl,
    rfl, _, rfl⟩

theorem test_witness_TransmissionTakesItsTime_end :
    ∃ t, exec (.txEnd 0) (link k1 (tx .framehold 0 120) (rx 7 0 [])) = .next t := ⟨_, rfl⟩

theorem test_witness_TransmissionMakesItsWaveform :
    Inv (link k1 (tx .setup 0 119) (rx 7 0 [])) ∧
      (∃ t w, step (link k1 (tx .setup 0 119) (rx 7 0 [])) = .next t ∧ t.devs[0]? = some w ∧ w.mode = .transmitting ∧
        (tx .setup 0 119).strobe_out = false ∧ w.strobe_out = true) ∧
      Inv (link k1 (tx .framehold 4 120) (rx 7 0 [])) ∧ tx .framehold 4 120 ∈ (link k1 (tx .framehold 4 120) (rx 7 0 [])).devs ∧
      (tx .framehold 4 120).tx_phase = .framehold :=
  ⟨inv_sending .setup 0 119 _ (by decide) (by decide) (by decide) (by decide) (by decide) (good_rx none) rfl,
    ⟨_, _, rfl, rfl, rfl, rfl, rfl⟩,
    inv_sending .framehold 4 120 _ (by decide) (by decide) (by decide) (by decide) (by decide) (good_rx none) rfl, by decide, rfl⟩

theorem follows_sending : Follows (tx .high 0 4) (edge false (rx 7 4 [(0, 7)])) :=
  ⟨(by decide : ∀ o, o < 4 → Memory.bit [(0, 7)] o = (Memory.ofBytes q7).bit o), .inr (by decide)⟩

theorem test_witness_ReceiverFollowsTheSender :
    (0 : Nat) ≠ 1 ∧ Inv sending ∧ 1 ≤ sending.cfg.t_bit_hold ∧ sending.cfg.line_faults = false ∧
      sending.devs[0]? = some (tx .high 0 4) ∧ sending.devs[1]? = some (edge false (rx 7 4 [(0, 7)])) ∧
      (tx .high 0 4).mode = .transmitting ∧ (edge false (rx 7 4 [(0, 7)])).rx_enable = true ∧
      Follows (tx .high 0 4) (edge false (rx 7 4 [(0, 7)])) ∧
      ∃ t a b, step sending = .next t ∧ t.devs[0]? = some a ∧ t.devs[1]? = some b ∧ a.mode = .transmitting ∧
        b.rx_enable = true ∧ b.bit_offset = 5 :=
  ⟨by decide, inv_sending_state, by decide, rfl, rfl, rfl, rfl, rfl, follows_sending, _, _, _, rfl, rfl, rfl, rfl, rfl, rfl⟩

theorem test_witness_FollowingDeliversTheFrame :
    (∃ t a b, exec (.txBegin 0 q7) (link k1 (rx 0 0 []) (rx 7 0 [])) = .next t ∧ t.devs[0]? = some a ∧ t.devs[1]? = some b ∧
      b.bit_offset = 0 ∧ b.edge_pending = none) ∧
      (∃ a b, Follows a b ∧ bitsOut a = k1.N ∧ b.edge_pending = none) :=
  ⟨⟨_, _, _, rfl, rfl, rfl, rfl, rfl⟩, tx .framehold 4 120, rx 7 120 (Memory.ofBytes q7),
    ⟨fun _ _ => rfl, .inl (by decide)⟩, by decide, by decide⟩

theorem test_witness_InternalOperationsAreNoTurns :
    fetch { link k1 (rx 0 0 []) fresh with sched := [turnOf (.txBegin 0 q7)] } = .internal (.txBegin 0 q7) ∧
      (∃ t w, step { link k1 (rx 0 0 []) fresh with sched := [turnOf (.sendRequest 0 7)] } = .next t ∧ t.devs[0]? = some w ∧
        w.mode = .transmitting) ∧
      (∃ t w, step { link k1 (rx 0 0 []) fresh with sched := [turnOf (.send 0 [0x2F] 3 0)] } = .next t ∧ t.devs[0]? = some w ∧
        w.mode = .transmitting) ∧
      (∃ t w, step { link k1 (rx 7 120 [(0, 7), (2, 1)]) fresh with sched := [reasmTurn 0] } = .next t ∧ t.devs[0]? = some w ∧
        (rx 7 120 [(0, 7), (2, 1)]).queue.length < w.queue.length) :=
  ⟨by decide, ⟨_, _, rfl, rfl, rfl⟩, ⟨_, _, rfl, rfl, rfl⟩, _, _, rfl, rfl, by decide⟩

theorem test_noedge_rows :
    (∀ now before, fetchTurn { link k1 fresh fresh with line_strobe := now, strobe_prev := before } (edgeTurn 0) =
      .instr (if now then .noedgeHigh 0 else if before then .noedgeFall 0 else .noedgeLow 0)) := by decide

/-- A device with a full queue of depth 1 and a complete request to itself. -/
def full : Device := { rx 7 120 [(0, 7), (2, 1)] with queue := [f1], params := { p1 with queue_depth := some 1 } }

theorem test_drains_if_the_host_polls_first :
    Drains 0 2 { link k1 full fresh with sched := [turnOf (.poll 0), reasmTurn 0] } := by
  intro k t v hk ht hv ha
  match k, hk with
  | 0, _ => cases ht; exact absurd ha (by unfold AcceptsFrame; decide)
  | 1, _ => cases ht; cases hv; rfl

theorem test_drains_not_if_the_host_does_not_poll :
    ¬Drains 0 1 { link k1 full fresh with sched := [reasmTurn 0] } := by
  intro h
  exact absurd (h 0 _ full (by decide) rfl rfl (by unfold AcceptsFrame; decide)) (by decide)

/-- A run whose only transmission is cut off by `RESET` of the sender. -/
def cutOff : State := { link k1 (rx 0 0 []) fresh with sched := [turnOf (.sendRequest 0 7), turnOf (.reset 0)] }

theorem test_end_state_of_a_run :
    ∃ t, EndState 2 cutOff t ∧ t.devs[0]? = some fresh := by
  have hq : Quiescent { cutOff with devs := [fresh, fresh] } := by
    unfold Quiescent; decide
  refine ⟨_, ⟨⟨_, rfl⟩, 0, 2, ⟨by decide, ⟨_, rfl, 0, .inr ⟨7, by decide⟩⟩, ?_⟩, by decide, by decide, rfl, hq, ?_⟩, rfl⟩
  · intro k t h0 h2 ht
    obtain rfl : k = 1 := by omega
    cases ht
    rintro ⟨x, ⟨_, _, _, h⟩ | ⟨_, h⟩⟩ <;> cases h
  · intro k u h0 h2 hu hn
    obtain rfl : k = 1 := by omega
    cases hu
    have := (hn _ (List.mem_cons_self ..)).1
    cases this

end Sys2Proof.Tests
end

section
/-! PROOFS. The chosen turn and the step: which turn `chooseTurn` takes, what `fetch` makes of the operation word of that turn,
and what `step` does with it (rules R23, R258; log entries 4, 5, 6, 12 and 13). -/

namespace Sys2Proof.Machine

/-! `chooseTurn` -/

theorem chooseTurn_of_sched_nil (s : State) (hs : s.sched = []) : chooseTurn s = ((urgentTurn s).getD tickTurn, []) := by
  simp only [chooseTurn, hs]

theorem chooseTurn_of_not_preempted (s : State) (t : Turn) (rest : List Turn) (hs : s.sched = t :: rest)
    (hp : preemptingTurn s t = none) : chooseTurn s = (t, rest) := by
  simp only [chooseTurn, hs, hp]

/-- A turn that has to wait stays at the head of the schedule. -/
theorem chooseTurn_of_preempted (s : State) (t u : Turn) (rest : List Turn) (hs : s.sched = t :: rest)
    (hp : preemptingTurn s t = some u) : chooseTurn s = (u, s.sched) := by
  simp only [chooseTurn, hs, hp]

/-! `afterFetch` and the operation word -/

theorem afterFetch_of_chooseTurn (s : State) (t : Turn) (rest : List Turn) (h : chooseTurn s = (t, rest)) :
    afterFetch s = { s with sched := rest } := by
  simp only [afterFetch, h]

/-- The operation word of a turn does not depend on the schedule. -/
@[simp] theorem turnBytes_afterFetch (s : State) (fmt : Format) (x : Nat) (code : Byte) (args : List Byte) :
    turnBytes (afterFetch s) fmt x code args = turnBytes s fmt x code args := rfl

/-! `isInternal` and `fetch` -/

theorem isInternal_iff (i : Instr) : isInternal i = true ↔ i.row = .txBegin ∨ i.row = .push := by
  simp [isInternal]

/-- A turn fetches the instruction that its operation word decodes to, marked when no agent performs it by itself. -/
theorem fetchTurn_of_decode (s : State) (fmt : Format) (x : Nat) (code : Byte) (args : List Byte) (i : Instr)
    (hd : decode s.cfg x (turnBytes s fmt x code args) = .ok i) :
    fetchTurn s (.op fmt x code args) = if isInternal i then .internal i else .instr i := by
  simp only [fetchTurn, hd]

/-- The operation word of the chosen turn may be formed before the turn leaves the schedule. -/
theorem fetch_of_decode (s : State) (fmt : Format) (x : Nat) (code : Byte) (args : List Byte) (rest : List Turn) (i : Instr)
    (hc : chooseTurn s = (.op fmt x code args, rest)) (hd : decode s.cfg x (turnBytes s fmt x code args) = .ok i) :
    fetch s = if isInternal i then .internal i else .instr i := by
  rw [fetch, hc]
  exact fetchTurn_of_decode (afterFetch s) fmt x code args i (by simpa using hd)

/-! `step` -/

theorem step_of_fetch_instr (s : State) (i : Instr) (h : fetch s = .instr i) : step s = exec i (afterFetch s) := by
  simp only [step, h]

theorem step_of_fetch_internal (s : State) (i : Instr) (h : fetch s = .internal i) :
    step s = .refused .internalOperation := by
  simp only [step, h]

/-- A decoded operation that an agent performs runs in the state whose schedule has lost the turn. -/
theorem step_of_decode (s : State) (fmt : Format) (x : Nat) (code : Byte) (args : List Byte) (rest : List Turn) (i : Instr)
    (hc : chooseTurn s = (.op fmt x code args, rest)) (hd : decode s.cfg x (turnBytes s fmt x code args) = .ok i)
    (hi : ¬(i.row = .txBegin ∨ i.row = .push)) : step s = exec i { s with sched := rest } := by
  have hf : fetch s = .instr i := by
    rw [fetch_of_decode s fmt x code args rest i hc hd, if_neg (mt (isInternal_iff i).mp hi)]
  rw [step_of_fetch_instr s i hf, afterFetch_of_chooseTurn s _ rest hc]

/-- `TX_BEGIN` and `PUSH` are no turns (rules R192, R220, R228). -/
theorem step_of_decode_internal (s : State) (fmt : Format) (x : Nat) (code : Byte) (args : List Byte) (rest : List Turn)
    (i : Instr) (hc : chooseTurn s = (.op fmt x code args, rest))
    (hd : decode s.cfg x (turnBytes s fmt x code args) = .ok i) (hi : i.row = .txBegin ∨ i.row = .push) :
    step s = .refused .internalOperation := by
  refine step_of_fetch_internal s i ?_
  rw [fetch_of_decode s fmt x code args rest i hc hd, if_pos ((isInternal_iff i).mpr hi)]

end Sys2Proof.Machine

namespace Sys2Proof
open Machine

/-- Settles O39: the step cases are the two laws of `step` at a decoded turn, the choice cases the three laws of
`chooseTurn`. -/
theorem stepRunsTheDecodedInstruction : Obligations.StepRunsTheDecodedInstruction := by
  intro s fmt x code args rest i
  refine ⟨fun hc hd => ⟨fun hb hp => ?_, fun hi => ?_⟩, fun t => ?_, fun t u => ?_, ?_⟩
  · exact step_of_decode s fmt x code args rest i hc hd (not_or.mpr ⟨hb, hp⟩)
  · exact ⟨_, step_of_decode_internal s fmt x code args rest i hc hd hi⟩
  · exact chooseTurn_of_not_preempted s t rest
  · exact chooseTurn_of_preempted s t u rest
  · exact chooseTurn_of_sched_nil s

end Sys2Proof
end

section
/-! PROOFS. Canonical buffers: the first listed address is the first that does not read 0, so the reading determines the
cells (log entry 19). -/

namespace Sys2Proof.Machine

theorem Memory.read_head (k : Nat) (b : Byte) (m : Memory) : Memory.read ((k, b) :: m) k = b := by
  rw [Memory.read_cons, if_pos rfl]

/-- Nothing below the first address of a canonical buffer reads other than 0. -/
theorem Memory.head_le_of_read_ne_zero (k : Nat) (b : Byte) (m : Memory) (a : Nat) (h : Memory.wf ((k, b) :: m) = true)
    (ha : Memory.read ((k, b) :: m) a ≠ 0) : k ≤ a := by
  obtain ⟨hk, -, -⟩ := (Memory.wf_cons k b m).mp h
  refine Nat.le_of_not_lt fun hlt => ha (Memory.read_of_lt _ a fun cell hc => ?_)
  rcases List.mem_cons.mp hc with rfl | hc
  · exact hlt
  · exact Nat.lt_trans hlt (hk cell hc)

/-- A canonical buffer that reads 0 everywhere lists nothing. -/
theorem Memory.eq_nil_of_read_eq_zero (m : Memory) (h : m.wf = true) (hr : ∀ a, m.read a = 0) : m = [] := by
  cases m with
  | nil => rfl
  | cons c m =>
    obtain ⟨k, b⟩ := c
    obtain ⟨-, hb, -⟩ := (Memory.wf_cons k b m).mp h
    exact absurd (Memory.read_head k b m ▸ hr k) hb

theorem Memory.ext_read (m m' : Memory) (h : m.wf = true) (h' : m'.wf = true) (hr : ∀ a, m.read a = m'.read a) :
    m = m' := by
  induction m generalizing m' with
  | nil => exact (Memory.eq_nil_of_read_eq_zero m' h' fun a => (hr a).symm).symm
  | cons c m ih =>
    cases m' with
    | nil => exact Memory.eq_nil_of_read_eq_zero _ h hr
    | cons c' m' =>
      obtain ⟨k, b⟩ := c
      obtain ⟨k', b'⟩ := c'
      obtain ⟨hlt, hb, hm⟩ := (Memory.wf_cons k b m).mp h
      obtain ⟨hlt', hb', hm'⟩ := (Memory.wf_cons k' b' m').mp h'
      have hle : k ≤ k' := Memory.head_le_of_read_ne_zero k b m k' h (by rwa [hr, Memory.read_head])
      have hge : k' ≤ k := Memory.head_le_of_read_ne_zero k' b' m' k h' (by rwa [← hr, Memory.read_head])
      obtain rfl : k = k' := Nat.le_antisymm hle hge
      obtain rfl : b = b' := by simpa only [Memory.read_head] using hr k
      have htail : ∀ a, Memory.read m a = Memory.read m' a := by
        intro a
        by_cases ha : k = a
        · subst ha
          rw [Memory.read_of_lt m k hlt, Memory.read_of_lt m' k hlt']
        · simpa only [Memory.read_cons, if_neg ha] using hr a
      rw [ih m' hm hm' htail]

end Sys2Proof.Machine

namespace Sys2Proof
open Machine

/-- Settles O44. -/
theorem canonicalBuffersAreEqual : Obligations.CanonicalBuffersAreEqual := Memory.ext_read

end Sys2Proof
end

section
/-! PROOFS. What an operation makes of one device: the 46 cases of `deviceEffect` fall into the changes of `DeviceMove`, and a
step makes one of them, or a line fault, at every device. -/

namespace Sys2Proof.Machine

/-- The instruction performs `TX_BEGIN` at device `y`, by itself or in its own step (rules R192, R220; log entry 13). -/
def BeginsTransmit (y : Nat) (i : Instr) : Prop :=
  (∃ f, i = .txBegin y f) ∨ (∃ p k val, i = .send y p k val) ∨ ∃ a, i = .sendRequest y a

/-- The changes an operation can make to device `y`, before the edge that a rise of the strobe may deliver: none, or the
effect of an operation that runs at `y`, or `TICK`. -/
inductive DeviceMove (c : Params) (y : Nat) (v : Device) : Instr → Device → Prop
  | same (i : Instr) : DeviceMove c y v i v
  | sample (d : Bool) (he : v.edge_pending = some d) (hr : v.rx_enable = true) (ho : v.bit_offset < c.N) :
    DeviceMove c y v (.sample y d)
      { v with
        raw := v.raw.setBitAt v.bit_offset d, bit_offset := v.bit_offset + 1, idle_ticks := 0
        edge_pending := none }
  | edgeOverrun (d : Bool) (he : v.edge_pending = some d) (hr : v.rx_enable = true) (ho : v.bit_offset = c.N) :
    DeviceMove c y v (.edgeOverrun y d) { v with idle_ticks := 0, edge_pending := none }
  | edgeMasked (d : Bool) (he : v.edge_pending = some d) (hr : v.rx_enable = false) :
    DeviceMove c y v (.edgeMasked y d) { v with edge_pending := none }
  | acceptRoom (i : Instr) (hi : i = .reasmAcceptSelf y ∨ i = .reasmAcceptCoord y) (hc : complete c v = true)
    (ha : accepts v = true) (hq : queueHasRoom v = true) :
    DeviceMove c y v i (v.pushFrame (v.raw.bytes c.NB)).clearRx.reasmDone
  | acceptFull (i : Instr) (hi : i = .reasmAcceptSelf y ∨ i = .reasmAcceptCoord y) (hq : queueHasRoom v = false) :
    DeviceMove c y v i { v.clearRx.reasmDone with q_overflow := true }
  | discard (i : Instr) (hi : i = .reasmReject y ∨ i = .reasmAbandon y) : DeviceMove c y v i v.clearRx.reasmDone
  | reasmNop : DeviceMove c y v (.reasmNop y) v.reasmDone
  | txBegin (i : Instr) (f : Frame) (hi : BeginsTransmit y i) (hf : 1 ≤ c.path_len → f.length = c.NB)
    (hc : v.configured = true) (hm : v.mode = .receiving) (hp : v.tx_phase = .off) :
    DeviceMove c y v i (v.enterTransmit f)
  | txData (hp : v.tx_phase = .load) (hi : v.tx_index < c.N) :
    DeviceMove c y v (.txData y)
      { v with data_out := v.tx_buf.bit v.tx_index, tx_phase := .setup, tx_wait := c.t_bit_hold }
  | txRise (hp : v.tx_phase = .setup) (hw : v.tx_wait = 0) :
    DeviceMove c y v (.txRise y) { v with strobe_out := true, tx_phase := .high, tx_wait := c.t_pulse }
  | txFall (hp : v.tx_phase = .high) (hw : v.tx_wait = 0) :
    DeviceMove c y v (.txFall y) { v with strobe_out := false, tx_phase := .low, tx_wait := c.t_bit_hold }
  | txNext (hp : v.tx_phase = .low) (hw : v.tx_wait = 0) (hi : v.tx_index < c.N - 1) :
    DeviceMove c y v (.txNext y) { v with tx_index := v.tx_index + 1, tx_phase := .load }
  | txFramehold (hp : v.tx_phase = .low) (hw : v.tx_wait = 0) (hi : v.tx_index = c.N - 1) :
    DeviceMove c y v (.txFramehold y) { v with tx_index := c.N, tx_phase := .framehold, tx_wait := c.t_frame_hold }
  | txEnd (hp : v.tx_phase = .framehold) (hw : v.tx_wait = 0) :
    DeviceMove c y v (.txEnd y)
      { v with pin_dir := .input, edge_pending := none, rx_enable := true, mode := .receiving, tx_phase := .off }
  | configure (id : Address) (hm : v.mode = .receiving) :
    DeviceMove c y v (.configure y id) { v.clearRx with own_id := id, configured := true, rx_enable := true }
  | poll (f : Frame) (rest : List Frame) (hq : v.queue = f :: rest) :
    DeviceMove c y v (.poll y) { v with queue := rest }
  | push (f : Frame) (hc : complete c v = true) (ha : accepts v = true) (hq : queueHasRoom v = true)
    (hf : f = v.raw.bytes c.NB) : DeviceMove c y v (.push y f) (v.pushFrame f)
  | tick (ht : letsTimePass c v = true) : DeviceMove c y v .tick v.tick
  | reset : DeviceMove c y v (.reset y) (Device.initial v.params)

/-- `REASM_ACCEPT` queues the frame or drops it (rule R174). -/
theorem acceptEffect_move (c : Params) (y : Nat) (v u : Device) (i : Instr)
    (hi : i = .reasmAcceptSelf y ∨ i = .reasmAcceptCoord y) (hc : complete c v = true) (ha : accepts v = true)
    (h : acceptEffect c v u) : DeviceMove c y v i u := by
  unfold acceptEffect at h
  split at h
  · next hq => exact h ▸ .acceptRoom i hi hc ha hq
  · next hq => exact h ▸ .acceptFull i hi (Bool.eq_false_iff.mpr hq)

/-- `TX_BEGIN`, by itself or in the step of a host operation (rule R192). -/
theorem beginEffect_move (c : Params) (y : Nat) (v u : Device) (i : Instr) (f : Frame) (hi : BeginsTransmit y i)
    (hf : 1 ≤ c.path_len → f.length = c.NB) (h : beginEffect v u f) : DeviceMove c y v i u := by
  obtain ⟨hc, hm, hp, rfl⟩ := h
  exact .txBegin i f hi hf hc hm hp

/-- Every effect is one of the moves. -/
theorem deviceEffect_move (c : Params) (v u : Device) (i : Instr) (h : deviceEffect c i v u) :
    DeviceMove c i.dev v i u := by
  cases i with
  | sample x d =>
    obtain ⟨⟨he, hr, ho⟩, rfl⟩ := h
    exact .sample d he hr ho
  | edgeOverrun x d =>
    obtain ⟨⟨he, hr, ho⟩, rfl⟩ := h
    exact .edgeOverrun d he hr ho
  | edgeMasked x d =>
    obtain ⟨⟨he, hr⟩, rfl⟩ := h
    exact .edgeMasked d he hr
  | reasmAcceptSelf x =>
    obtain ⟨hg, he⟩ := h
    obtain ⟨hc, hs⟩ := Bool.and_eq_true_iff.mp hg
    exact acceptEffect_move c x v u _ (.inl rfl) hc (by rw [accepts, hs, Bool.true_or]) he
  | reasmAcceptCoord x =>
    obtain ⟨hg, he⟩ := h
    obtain ⟨hc, hs⟩ := Bool.and_eq_true_iff.mp hg
    exact acceptEffect_move c x v u _ (.inr rfl) hc
      (by rw [accepts, (Bool.and_eq_true_iff.mp hs).2, Bool.or_true]) he
  | reasmReject x =>
    obtain ⟨-, rfl⟩ := h
    exact .discard _ (.inl rfl)
  | reasmAbandon x =>
    obtain ⟨-, rfl⟩ := h
    exact .discard _ (.inr rfl)
  | reasmNop x =>
    obtain rfl := h
    exact .reasmNop
  | txBegin x f =>
    obtain ⟨⟨hl, -⟩, he⟩ := h
    exact beginEffect_move c x v u _ f (.inl ⟨f, rfl⟩) (fun _ => hl) he
  | send x p k val =>
    exact beginEffect_move c x v u _ _ (.inr (.inl ⟨p, k, val, rfl⟩)) (encodeDataFrame_length c k p val) h
  | sendRequest x a =>
    exact beginEffect_move c x v u _ _ (.inr (.inr ⟨a, rfl⟩)) (fun _ => encodeRequestFrame_length c a) h
  | txData x =>
    obtain ⟨⟨hp, hi⟩, rfl⟩ := h
    exact .txData hp hi
  | txRise x =>
    obtain ⟨⟨hp, hw⟩, rfl⟩ := h
    exact .txRise hp hw
  | txFall x =>
    obtain ⟨⟨hp, hw⟩, rfl⟩ := h
    exact .txFall hp hw
  | txNext x =>
    obtain ⟨⟨hp, hw, hi⟩, rfl⟩ := h
    exact .txNext hp hw hi
  | txFramehold x =>
    obtain ⟨⟨hp, hw, hi⟩, rfl⟩ := h
    exact .txFramehold hp hw hi
  | txEnd x =>
    obtain ⟨⟨hp, hw⟩, rfl⟩ := h
    exact .txEnd hp hw
  | configure x id =>
    obtain ⟨hm, rfl⟩ := h
    exact .configure id hm
  | poll x =>
    rcases h with ⟨-, rfl⟩ | ⟨f, rest, hq, rfl⟩
    · exact .same _
    · exact .poll f rest hq
  | push x f =>
    obtain ⟨hg, rfl⟩ := h
    simp only [Bool.and_eq_true, beq_iff_eq] at hg
    obtain ⟨⟨⟨hc, ha⟩, hq⟩, hf⟩ := hg
    exact .push f hc ha hq hf
  | tick =>
    obtain ⟨ht, rfl⟩ := h
    exact .tick ht
  | reset x =>
    obtain rfl := h
    exact .reset
  | _ =>
    obtain rfl := h
    exact .same _

/-- A delivered edge changes only `edge_pending`. -/
theorem edgeDelivered_update (s t : State) (u w : Device) (h : edgeDelivered s t u w) :
    ∃ p, w = { u with edge_pending := p } := by
  rcases h with rfl | ⟨rfl, -⟩
  · exact ⟨w.edge_pending, rfl⟩
  · exact ⟨_, rfl⟩

/-- An instruction makes one move at every device, and may deliver an edge to it. -/
theorem exec_move (i : Instr) (s t : State) (y : Nat) (v w : Device) (h : exec i s = .next t)
    (hv : s.devs[y]? = some v) (hw : t.devs[y]? = some w) :
    ∃ u p, DeviceMove s.cfg y v i u ∧ w = { u with edge_pending := p } := by
  obtain ⟨u, hu, hd⟩ := exec_device i s t y v w h hv hw
  obtain ⟨p, hp⟩ := edgeDelivered_update s t u w hd
  refine ⟨u, p, ?_, hp⟩
  rcases hu with ⟨rfl | rfl, he⟩ | ⟨-, rfl⟩
  · exact deviceEffect_move s.cfg v u i he
  · obtain ⟨ht, rfl⟩ := he
    exact .tick ht
  · exact .same i

/-- A line fault changes only the pending edge of a device (rule R276). -/
theorem applyLineFault_update (x : Nat) (e : LineFault) (s t : State) (h : applyLineFault x e s = .next t) :
    ∃ u p, s.devs[x]? = some u ∧ t = s.setDev x { u with edge_pending := p } := by
  obtain ⟨u, hu, -, ⟨d, -, -, rfl⟩ | ⟨d, -, -, rfl⟩ | ⟨d, -, -, rfl⟩⟩ := (applyLineFault_eq_next x e s t).mp h
  all_goals exact ⟨u, _, hu, rfl⟩

theorem applyLineFault_device (x : Nat) (e : LineFault) (s t : State) (y : Nat) (v w : Device)
    (h : applyLineFault x e s = .next t) (hv : s.devs[y]? = some v) (hw : t.devs[y]? = some w) :
    ∃ p, w = { v with edge_pending := p } := by
  obtain ⟨u, p, hu, rfl⟩ := applyLineFault_update x e s t h
  rcases setDev_device s x y u _ w hu hw with ⟨rfl, rfl⟩ | ⟨-, hw'⟩
  · cases hu.symm.trans hv
    exact ⟨p, rfl⟩
  · cases hv.symm.trans hw'
    exact ⟨v.edge_pending, rfl⟩

/-- Everything a step can do to a device: a move of the instruction it runs and a delivered edge, or a line fault. -/
theorem step_move (s t : State) (y : Nat) (v w : Device) (h : step s = .next t) (hv : s.devs[y]? = some v)
    (hw : t.devs[y]? = some w) :
    (∃ i u p, DeviceMove s.cfg y v i u ∧ w = { u with edge_pending := p }) ∨ ∃ p, w = { v with edge_pending := p } := by
  rcases (step_eq_next s t).mp h with ⟨i, -, he⟩ | ⟨x, e, -, he⟩
  · exact .inl ⟨i, exec_move i (afterFetch s) t y v w he hv hw⟩
  · exact .inr (applyLineFault_device x e (afterFetch s) t y v w he hv hw)

theorem DeviceMove.params_eq {c : Params} {y : Nat} {v u : Device} {i : Instr} (h : DeviceMove c y v i u) :
    u.params = v.params := by
  cases h <;> rfl

end Sys2Proof.Machine
end

section
/-! PROOFS. What an operation makes of the link: no operation changes a parameter or the number of devices, and each either
leaves the drivers and the strobe line alone or resolves the lines (rules R50, R270, R274). -/

namespace Sys2Proof.Machine

/-- What a device puts on the lines, as far as the strobe goes: whether it drives them, and its level. -/
def Device.drives (v : Device) : PinDir × Bool := (v.pin_dir, v.strobe_out)

/-- The two ways an operation treats the link. -/
inductive LinkEffect (s t : State) : Prop
  | kept (hc : t.cfg = s.cfg) (hl : t.line_strobe = s.line_strobe)
    (hd : t.devs.map Device.drives = s.devs.map Device.drives)
  | resolved (s' : State) (hc : s'.cfg = s.cfg) (hn : s'.devs.length = s.devs.length)
    (hr : resolveLink s' = .next t)

theorem LinkEffect.of_devs_eq (s t : State) (hc : t.cfg = s.cfg) (hl : t.line_strobe = s.line_strobe)
    (hd : t.devs = s.devs) : LinkEffect s t :=
  .kept hc hl (by rw [hd])

/-- A device may be replaced by one that drives the same. -/
theorem LinkEffect.of_set (s t : State) (x : Nat) (v u : Device) (hc : t.cfg = s.cfg)
    (hl : t.line_strobe = s.line_strobe) (hv : s.devs[x]? = some v) (hd : t.devs = s.devs.set x u)
    (hu : u.drives = v.drives) : LinkEffect s t := by
  refine .kept hc hl ?_
  obtain ⟨hx, rfl⟩ := List.getElem?_eq_some_iff.mp hv
  have hx' : x < (s.devs.map Device.drives).length := by rwa [List.length_map]
  rw [hd, List.map_set, hu, ← List.getElem_map Device.drives (h := hx'), List.set_getElem_self]

theorem LinkEffect.of_resolve_setDev (s s' t : State) (x : Nat) (u : Device) (hc : s'.cfg = s.cfg)
    (hd : s'.devs = s.devs) (hr : resolveLink (s'.setDev x u) = .next t) : LinkEffect s t :=
  .resolved (s'.setDev x u) hc (by rw [State.setDev_devs, List.length_set, hd]) hr

/-- `TX_BEGIN` resolves the lines (rules R192, R270). -/
theorem LinkEffect.of_beginTransmit (s t : State) (x : Nat) (f : Frame) (h : beginTransmit s x f = .next t) :
    LinkEffect s t := by
  rw [beginTransmit, onDev_eq_next] at h
  obtain ⟨v, -, h⟩ := h
  simp only [ite_refused_left_eq_next] at h
  obtain ⟨-, -, -, hr⟩ := h
  exact .of_resolve_setDev s (reportTxAbandon s x v) t x _ (reportTxAbandon_cfg s x v) (reportTxAbandon_devs s x v) hr

theorem LinkEffect.of_acceptFrame (s : State) (x : Nat) (v : Device) (hv : s.devs[x]? = some v) :
    LinkEffect s (acceptFrame s x v) := by
  rw [acceptFrame_eq]
  split
  · exact .of_set s _ x v _ rfl rfl hv rfl rfl
  · exact .of_set s _ x v _ rfl rfl hv rfl rfl

theorem LinkEffect.of_reportReading (s t : State) (x : Nat) (path : List Byte) (w : View)
    (h : reportReading s x path w = .next t) : LinkEffect s t := by
  obtain ⟨-, -, rfl⟩ := (reportReading_eq_next s t x path w).mp h
  exact .of_devs_eq s _ rfl rfl rfl

theorem LinkEffect.of_waitInPhase (s t : State) (x : Nat) (p : TxPhase) (h : waitInPhase x p s = .next t) :
    LinkEffect s t := by
  obtain ⟨_, -, -, rfl⟩ := (waitInPhase_eq_next s t x p).mp h
  exact .of_devs_eq t t rfl rfl rfl

theorem exec_linkEffect (i : Instr) (s t : State) (h : exec i s = .next t) : LinkEffect s t := by
  cases i with
  | kindUnknown x r p val => exact .of_reportReading s t x p _ h
  | kindRequestOnly x r p val => exact .of_reportReading s t x p _ h
  | kindFloat x r p val => exact .of_reportReading s t x p _ h
  | kindDouble x r p val => exact .of_reportReading s t x p _ h
  | kindInt64 x r p val => exact .of_reportReading s t x p _ h
  | kindUint64 x r p val => exact .of_reportReading s t x p _ h
  | kindReserved6 x b r p val => exact .of_reportReading s t x p _ h
  | kindReserved8 x b r p val => exact .of_reportReading s t x p _ h
  | kindReserved16 x b r p val => exact .of_reportReading s t x p _ h
  | kindReserved32 x b r p val => exact .of_reportReading s t x p _ h
  | kindReserved64 x b r p val => exact .of_reportReading s t x p _ h
  | kindReserved128 x b r p val => exact .of_reportReading s t x p _ h
  | sample x d =>
    obtain ⟨v, hv, -, rfl⟩ := (execSample_eq_next x d s t).mp h
    exact .of_set s _ x v _ rfl rfl hv rfl rfl
  | edgeOverrun x d =>
    obtain ⟨v, hv, -, rfl⟩ := (execEdgeOverrun_eq_next x d s t).mp h
    exact .of_set s _ x v _ rfl rfl hv rfl rfl
  | edgeMasked x d =>
    obtain ⟨v, hv, -, rfl⟩ := (execEdgeMasked_eq_next x d s t).mp h
    exact .of_set s _ x v _ rfl rfl hv rfl rfl
  | noedgeLow x =>
    obtain ⟨_, -, rfl⟩ := (execNoedgeLow_eq_next x s t).mp h
    exact .of_devs_eq t t rfl rfl rfl
  | noedgeFall x =>
    obtain ⟨_, -, rfl⟩ := (execNoedgeFall_eq_next x s t).mp h
    exact .of_devs_eq t t rfl rfl rfl
  | noedgeHigh x =>
    obtain ⟨_, -, rfl⟩ := (execNoedgeHigh_eq_next x s t).mp h
    exact .of_devs_eq t t rfl rfl rfl
  | reasmAcceptSelf x =>
    obtain ⟨v, hv, -, rfl⟩ := (execReasmAcceptSelf_eq_next x s t).mp h
    exact .of_acceptFrame s x v hv
  | reasmAcceptCoord x =>
    obtain ⟨v, hv, -, rfl⟩ := (execReasmAcceptCoord_eq_next x s t).mp h
    exact .of_acceptFrame s x v hv
  | reasmReject x =>
    obtain ⟨v, hv, -, rfl⟩ := (execReasmReject_eq_next x s t).mp h
    exact .of_set s _ x v _ rfl rfl hv rfl rfl
  | reasmAbandon x =>
    obtain ⟨v, hv, -, rfl⟩ := (execReasmAbandon_eq_next x s t).mp h
    exact .of_set s _ x v _ rfl rfl hv rfl rfl
  | reasmNop x =>
    obtain ⟨v, hv, -, rfl⟩ := (execReasmNop_eq_next x s t).mp h
    exact .of_set s _ x v _ rfl rfl hv rfl rfl
  | txBegin x f =>
    obtain ⟨-, hb⟩ := (execTxBegin_eq_next x f s t).mp h
    exact .of_beginTransmit s t x f hb
  | txData x =>
    obtain ⟨v, -, -, -, hr⟩ := (execTxData_eq_next x s t).mp h
    exact .of_resolve_setDev s s t x _ rfl rfl hr
  | txRise x =>
    obtain ⟨v, -, -, hr⟩ := (execTxRise_eq_next x s t).mp h
    exact .of_resolve_setDev s s t x _ rfl rfl hr
  | txFall x =>
    obtain ⟨v, -, -, hr⟩ := (execTxFall_eq_next x s t).mp h
    exact .of_resolve_setDev s s t x _ rfl rfl hr
  | txNext x =>
    obtain ⟨v, hv, -, rfl⟩ := (execTxNext_eq_next x s t).mp h
    exact .of_set s _ x v _ rfl rfl hv rfl rfl
  | txFramehold x =>
    obtain ⟨v, hv, -, rfl⟩ := (execTxFramehold_eq_next x s t).mp h
    exact .of_set s _ x v _ rfl rfl hv rfl rfl
  | txEnd x =>
    obtain ⟨v, -, -, hr⟩ := (execTxEnd_eq_next x s t).mp h
    exact .of_resolve_setDev s (s.report (.sendReturned x)) t x _ rfl rfl hr
  | txWaitSetup x => exact .of_waitInPhase s t x _ h
  | txWaitHigh x => exact .of_waitInPhase s t x _ h
  | txWaitLow x => exact .of_waitInPhase s t x _ h
  | txWaitFramehold x => exact .of_waitInPhase s t x _ h
  | txUnreachable x =>
    obtain ⟨_, -, -, rfl⟩ := (execTxUnreachable_eq_next x s t).mp h
    exact .of_devs_eq t t rfl rfl rfl
  | configure x id =>
    obtain ⟨v, hv, -, rfl⟩ := (execConfigure_eq_next x id s t).mp h
    exact .of_set s _ x v _ rfl rfl hv rfl rfl
  | send x p k val =>
    obtain ⟨-, -, hb⟩ := (execSend_eq_next x p k val s t).mp h
    exact .of_beginTransmit s t x _ hb
  | sendRequest x a => exact .of_beginTransmit s t x _ ((execSendRequest_eq_next x a s t).mp h)
  | poll x =>
    obtain ⟨v, hv, -, ⟨-, rfl⟩ | ⟨f, rest, -, rfl⟩⟩ := (execPoll_eq_next x s t).mp h
    · exact .of_devs_eq s _ rfl rfl rfl
    · exact .of_set s _ x v _ rfl rfl hv rfl rfl
  | encodeData x k p val =>
    obtain ⟨-, -, -, rfl⟩ := (execEncodeData_eq_next x k p val s t).mp h
    exact .of_devs_eq s _ rfl rfl rfl
  | encodeRequest x a =>
    obtain ⟨_, -, rfl⟩ := (execEncodeRequest_eq_next x a s t).mp h
    exact .of_devs_eq s _ rfl rfl rfl
  | decodeFrame x f =>
    obtain ⟨_, -, -, rfl⟩ := (execDecodeFrame_eq_next x f s t).mp h
    exact .of_devs_eq s _ rfl rfl rfl
  | push x f =>
    obtain ⟨v, hv, -, rfl⟩ := (execPush_eq_next x f s t).mp h
    exact .of_set s _ x v _ rfl rfl hv rfl rfl
  | tick =>
    obtain ⟨-, rfl⟩ := (execTick_eq_next s t).mp h
    exact .kept rfl rfl (by rw [List.map_map]; rfl)
  | linkResolve => exact .resolved s rfl rfl h
  | reset x =>
    obtain ⟨v, -, hr⟩ := (execReset_eq_next x s t).mp h
    exact .of_resolve_setDev s s t x _ rfl rfl hr

theorem step_linkEffect (s t : State) (h : step s = .next t) : LinkEffect s t := by
  have key : LinkEffect (afterFetch s) t := by
    rcases (step_eq_next s t).mp h with ⟨i, -, he⟩ | ⟨x, e, -, he⟩
    · exact exec_linkEffect i (afterFetch s) t he
    · obtain ⟨v, p, hv, rfl⟩ := applyLineFault_update x e (afterFetch s) t he
      exact .of_set (afterFetch s) _ x v _ rfl rfl hv rfl rfl
  cases key with
  | kept hc hl hd => exact .kept hc hl hd
  | resolved s' hc hn hr => exact .resolved s' hc hn hr

/-! The lines after `LINK_RESOLVE`. -/

theorem deliverEdge_drives (d : Bool) (v : Device) : (deliverEdge d v).drives = v.drives := by
  simp [Device.drives]

theorem driveLines_map_drives (s : State) (strobe data : Bool) :
    (driveLines s strobe data).devs.map Device.drives = s.devs.map Device.drives := by
  rw [driveLines_devs]
  split
  · rw [List.map_map]
    exact List.map_congr_left fun v _ => deliverEdge_drives data v
  · rfl

/-- `LINK_RESOLVE` leaves the parameters and what every device drives. -/
theorem resolveLink_frame (s t : State) (h : resolveLink s = .next t) :
    t.cfg = s.cfg ∧ t.devs.map Device.drives = s.devs.map Device.drives := by
  rcases (resolveLink_eq_next s t).mp h with ⟨-, rfl⟩ | ⟨a, -, rfl⟩
  · exact ⟨rfl, driveLines_map_drives { s with free_count := s.free_count + 1 } _ _⟩
  · exact ⟨rfl, driveLines_map_drives s _ _⟩

theorem LinkEffect.frame {s t : State} (h : LinkEffect s t) : t.cfg = s.cfg ∧ t.devs.length = s.devs.length := by
  have len : ∀ u : State, t.devs.map Device.drives = u.devs.map Device.drives → t.devs.length = u.devs.length :=
    fun u hd => by simpa only [List.length_map] using congrArg List.length hd
  cases h with
  | kept hc hl hd => exact ⟨hc, len s hd⟩
  | resolved s' hc hn hr =>
    obtain ⟨hc', hd⟩ := resolveLink_frame s' t hr
    exact ⟨hc'.trans hc, (len s' hd).trans hn⟩

end Sys2Proof.Machine
end

section
/-! PROOFS. The lines of the invariant: `LinkSafe` speaks of the strobe line and of what the devices drive, and every
`LINK_RESOLVE` that answers establishes it (rules R270, R271, R273). -/

namespace Sys2Proof.Machine

/-- A device found after a change that keeps what the devices drive was there before, driving the same. -/
theorem getElem?_of_map_drives_eq (l l' : List Device) (h : l'.map Device.drives = l.map Device.drives) (x : Nat)
    (w : Device) (hw : l'[x]? = some w) :
    ∃ v, l[x]? = some v ∧ w.pin_dir = v.pin_dir ∧ w.strobe_out = v.strobe_out := by
  have hx : (l.map Device.drives)[x]? = some w.drives := by rw [← h, List.getElem?_map, hw, Option.map_some]
  rw [List.getElem?_map, Option.map_eq_some_iff] at hx
  obtain ⟨v, hv, hd⟩ := hx
  obtain ⟨hp, hs⟩ := Prod.mk.inj hd
  exact ⟨v, hv, hp.symm, hs.symm⟩

/-- Some device drives the lines with the strobe high. -/
def StrobeHeld (l : List Device) : Prop := ∃ v ∈ l, v.pin_dir = .output ∧ v.strobe_out = true

theorem strobeHeld_iff (l : List Device) : StrobeHeld l ↔ (PinDir.output, true) ∈ l.map Device.drives := by
  rw [List.mem_map]
  refine exists_congr fun v => and_congr_right fun _ => ?_
  rw [Device.drives, Prod.mk.injEq]

theorem LinkSafe.of_drives_eq {s t : State} (h : LinkSafe s) (hl : t.line_strobe = s.line_strobe)
    (hd : t.devs.map Device.drives = s.devs.map Device.drives) : LinkSafe t where
  one_driver := by
    intro x y v w hv hw hpv hpw
    obtain ⟨v', hv', hp, -⟩ := getElem?_of_map_drives_eq s.devs t.devs hd x v hv
    obtain ⟨w', hw', hq, -⟩ := getElem?_of_map_drives_eq s.devs t.devs hd y w hw
    exact h.one_driver x y v' w' hv' hw' (hp ▸ hpv) (hq ▸ hpw)
  strobe_driven := by
    have hs : s.line_strobe = true ↔ StrobeHeld s.devs := h.strobe_driven
    rw [strobeHeld_iff, ← hd, ← strobeHeld_iff] at hs
    rw [hl]
    exact hs

theorem mem_drivers (s : State) (v : Device) : v ∈ drivers s ↔ v ∈ s.devs ∧ v.pin_dir = .output := by
  simp [drivers]

/-- A single driver leaves no other device that drives. -/
theorem otherDrives_of_drivers_singleton (s : State) (x : Nat) (v a : Device) (hd : drivers s = [a])
    (hv : s.devs[x]? = some v) (hp : v.pin_dir = .output) : otherDrives s x = false := by
  obtain ⟨l, r, hs, he⟩ := split_at_getElem? s.devs x v hv
  rw [drivers, hs, List.filter_append, List.filter_cons, if_pos (by simp [hp])] at hd
  obtain ⟨hl, hr⟩ : l.filter (fun v => v.pin_dir == .output) = [] ∧ r.filter (fun v => v.pin_dir == .output) = [] := by
    have hn := congrArg List.length hd
    simp only [List.length_append, List.length_cons, List.length_nil] at hn
    exact ⟨List.length_eq_zero_iff.mp (by omega), List.length_eq_zero_iff.mp (by omega)⟩
  rw [otherDrives, he, List.any_eq_false]
  intro u hu
  rcases List.mem_append.mp hu with hu | hu
  · exact List.filter_eq_nil_iff.mp hl u hu
  · exact List.filter_eq_nil_iff.mp hr u hu

/-- Lines at the levels of the only driver, or low without one, agree with the drivers. -/
theorem linkSafe_of_no_driver (s : State) (hd : drivers s = []) (hl : s.line_strobe = false) : LinkSafe s := by
  have hin := (drivers_eq_nil s).mp hd
  have none_drives : ∀ v ∈ s.devs, v.pin_dir ≠ .output := fun v hv => by rw [hin v hv]; decide
  constructor
  · intro x y v w hv _ hp _
    exact absurd hp (none_drives v (List.mem_of_getElem? hv))
  · rw [hl]
    exact ⟨fun h => absurd h Bool.false_ne_true, fun ⟨v, hv, hp, _⟩ => absurd hp (none_drives v hv)⟩

theorem linkSafe_of_driver (s : State) (a : Device) (hd : drivers s = [a]) (hl : s.line_strobe = a.strobe_out) :
    LinkSafe s := by
  have only : ∀ v ∈ s.devs, v.pin_dir = .output → v = a := fun v hv hp =>
    List.mem_singleton.mp (hd ▸ (mem_drivers s v).mpr ⟨hv, hp⟩)
  obtain ⟨ha, hpa⟩ := (mem_drivers s a).mp (hd ▸ List.mem_singleton_self a)
  constructor
  · intro x y v w hv hw hp hq
    have others := (otherDrives_eq_false s x).mp (otherDrives_of_drivers_singleton s x v a hd hv hp)
    refine Decidable.byContradiction fun hxy => ?_
    rw [others y w (Ne.symm hxy) hw] at hq
    cases hq
  · rw [hl]
    exact ⟨fun h => ⟨a, ha, hpa, h⟩, fun ⟨v, hv, hp, hs⟩ => only v hv hp ▸ hs⟩

theorem resolveLink_linkSafe (s t : State) (h : resolveLink s = .next t) : LinkSafe t := by
  rcases (resolveLink_eq_next s t).mp h with ⟨hd, rfl⟩ | ⟨a, hd, rfl⟩
  · exact (linkSafe_of_no_driver { s with line_strobe := false } hd rfl).of_drives_eq rfl
      (driveLines_map_drives { s with free_count := s.free_count + 1 } _ _)
  · exact (linkSafe_of_driver { s with line_strobe := a.strobe_out } a hd rfl).of_drives_eq rfl
      (driveLines_map_drives s _ _)

theorem LinkEffect.linkSafe {s t : State} (h : LinkEffect s t) (hs : LinkSafe s) : LinkSafe t := by
  cases h with
  | kept hc hl hd => exact hs.of_drives_eq hl hd
  | resolved s' hc hn hr => exact resolveLink_linkSafe s' t hr

end Sys2Proof.Machine
end

section
/-! PROOFS. The invariant of one device: rule R59 and the ranges of rule R30, kept by every move of `DeviceMove`. -/

namespace Sys2Proof.Machine

theorem N_pos (c : Params) : 0 < c.N := by
  simp only [Params.N, Params.NB]
  omega

/-- What the invariant says of one device. -/
structure DeviceInv (c : Params) (v : Device) : Prop where
  safe : DeviceSafe c v
  ranges : DeviceRanges c v

section
variable {c : Params} {v : Device}

/-! Facts the guards of the operations turn on. -/

theorem DeviceSafe.mode_of_phase (h : DeviceSafe c v) (hp : v.tx_phase ≠ .off) : v.mode = .transmitting := by
  cases hm : v.mode with
  | transmitting => rfl
  | receiving => exact absurd (h.receiving hm).2.1 hp

theorem DeviceSafe.configured_of_complete (h : DeviceSafe c v) (hc : complete c v = true) : v.configured = true := by
  have hN := N_pos c
  have hb : v.bit_offset = c.N := by simpa [complete] using hc
  cases hconf : v.configured with
  | true => rfl
  | false =>
    obtain ⟨-, h0, -⟩ := h.unconfigured hconf
    omega

/-- The room of the queue, depth by depth (rule R228). -/
theorem queueHasRoom_iff (v : Device) :
    queueHasRoom v = true ↔ ∀ n, v.params.queue_depth = some n → v.queue.length < n := by
  unfold queueHasRoom
  cases v.params.queue_depth with
  | none => simp
  | some n => simp

/-! The parts the operations share: the pending edge, the clear of the receive buffer, the end of `REASM`, the queue. -/

/-- The invariant does not read the pending edge. -/
theorem DeviceInv.setEdge (h : DeviceInv c v) (p : Option Bool) : DeviceInv c { v with edge_pending := p } :=
  ⟨{ h.safe with }, { h.ranges with }⟩

theorem DeviceInv.clearRx (h : DeviceInv c v) : DeviceInv c v.clearRx where
  safe :=
    { h.safe with
      offset_le := Nat.zero_le _
      tail_zero := fun o _ => Memory.bit_nil o
      transmitting := fun hm =>
        have ⟨hr, hp, _, ht⟩ := h.safe.transmitting hm
        ⟨hr, hp, rfl, ht⟩
      unconfigured := fun hc =>
        have ⟨hr, _, hq⟩ := h.safe.unconfigured hc
        ⟨hr, rfl, hq⟩ }
  ranges :=
    { h.ranges with
      raw_wf := rfl
      raw_inside := fun _ hc => absurd hc List.not_mem_nil
      idle_le := Nat.zero_le _ }

theorem DeviceInv.reasmDone (h : DeviceInv c v) : DeviceInv c v.reasmDone :=
  ⟨{ h.safe with }, { h.ranges with reasm_le := Nat.zero_le _ }⟩

theorem DeviceInv.edgeOverrun (h : DeviceInv c v) : DeviceInv c { v with idle_ticks := 0, edge_pending := none } :=
  ⟨{ h.safe with }, { h.ranges with idle_le := Nat.zero_le _ }⟩

theorem DeviceInv.pushFrame (h : DeviceInv c v) (f : Frame) (hc : v.configured = true) (hq : queueHasRoom v = true)
    (hf : f.length = c.NB) : DeviceInv c (v.pushFrame f) where
  safe :=
    { h.safe with
      unconfigured := fun hu => absurd (hc.symm.trans hu) (by decide)
      queue_frames := fun g hg => by
        rcases List.mem_append.mp hg with hg | hg
        · exact h.safe.queue_frames g hg
        · rw [List.mem_singleton.mp hg, hf] }
  ranges :=
    { h.ranges with
      queue_le := fun n hn => by
        rw [Device.pushFrame_queue, List.length_append]
        exact (queueHasRoom_iff v).mp hq n hn }

/-- `q_overflow` is set only where the queue is full, and an unbounded queue never is. -/
theorem DeviceInv.setOverflow (h : DeviceInv c v) (hq : queueHasRoom v = false) :
    DeviceInv c { v with q_overflow := true } := by
  have hfin : v.params.queue_depth ≠ none := fun hn =>
    absurd ((queueHasRoom_iff v).mpr fun n hs => by rw [hn] at hs; cases hs) (by simp [hq])
  exact ⟨{ h.safe with }, { h.ranges with overflow_finite := fun _ => hfin }⟩

theorem DeviceInv.popQueue (h : DeviceInv c v) (f : Frame) (rest : List Frame) (hq : v.queue = f :: rest) :
    DeviceInv c { v with queue := rest } where
  safe :=
    { h.safe with
      unconfigured := fun hu => by
        obtain ⟨-, -, hn⟩ := h.safe.unconfigured hu
        exact absurd (hq.symm.trans hn) (List.cons_ne_nil f rest)
      queue_frames := fun g hg => h.safe.queue_frames g (hq ▸ List.mem_cons_of_mem f hg) }
  ranges :=
    { h.ranges with
      queue_le := fun n hn => by
        have hle := h.ranges.queue_le n hn
        rw [hq] at hle
        exact Nat.le_of_succ_le hle }

/-! The sampler, the host's `CONFIGURE`, time, reset. -/

theorem DeviceInv.sample (h : DeviceInv c v) (d : Bool) (hr : v.rx_enable = true) (ho : v.bit_offset < c.N) :
    DeviceInv c { v with
      raw := v.raw.setBitAt v.bit_offset d, bit_offset := v.bit_offset + 1, idle_ticks := 0, edge_pending := none } := by
  obtain ⟨hconf, hrecv⟩ := h.safe.enabled hr
  constructor
  · exact
      { h.safe with
        offset_le := ho
        tail_zero := fun o (hle : v.bit_offset + 1 ≤ o) => by
          rw [Memory.bit_setBitAt _ _ _ _ h.ranges.raw_wf, if_neg (by omega)]
          exact h.safe.tail_zero o (by omega)
        transmitting := fun hm => absurd (hrecv.symm.trans hm) (by decide)
        unconfigured := fun hu => absurd (hconf.symm.trans hu) (by decide) }
  · exact
      { h.ranges with
        raw_wf := Memory.wf_setBitAt _ _ _ h.ranges.raw_wf
        raw_inside := fun cell hc => by
          rcases Memory.mem_write _ _ _ cell hc with hc | rfl
          · exact h.ranges.raw_inside cell hc
          · exact Nat.div_lt_of_lt_mul ho
        idle_le := Nat.zero_le _ }

theorem DeviceInv.configure (h : DeviceInv c v) (id : Address) (hm : v.mode = .receiving) :
    DeviceInv c { v.clearRx with own_id := id, configured := true, rx_enable := true } where
  safe :=
    { h.clearRx.safe with
      transmitting := fun ht => absurd (hm.symm.trans ht) (by decide)
      enabled := fun _ => ⟨rfl, hm⟩
      unconfigured := fun hu => absurd hu (by simp) }
  ranges := { h.clearRx.ranges with transmitter_configured := fun _ => rfl }

theorem DeviceInv.tick (h : DeviceInv c v) (ht : letsTimePass c v = true) : DeviceInv c v.tick where
  safe := { h.safe with }
  ranges :=
    { h.ranges with
      wait_le := Nat.le_trans (Nat.sub_le _ _) h.ranges.wait_le
      idle_le := by
        rw [Device.tick_idle_ticks]
        split
        · next hlt => exact hlt
        · exact h.ranges.idle_le
      reasm_le := by
        simp only [letsTimePass, Bool.and_eq_true, decide_eq_true_eq] at ht
        exact ht.2 }

theorem deviceInv_initial (c : Params) (p : DeviceParams) : DeviceInv c (Device.initial p) where
  safe := by constructor <;> simp [Device.initial]
  ranges := by constructor <;> simp [Device.initial, Memory.wf_nil]

/-! The transmitter. -/

theorem DeviceInv.enterTransmit (h : DeviceInv c v) (f : Frame) (hf : f.length = c.NB) (hc : v.configured = true) :
    DeviceInv c (v.enterTransmit f) where
  safe :=
    { h.clearRx.safe with
      transmitting := fun _ => ⟨rfl, rfl, rfl, by simp⟩
      receiving := fun hm => absurd hm (by simp)
      enabled := fun hr => absurd hr (by simp)
      unconfigured := fun hu => absurd (hc.symm.trans hu) (by decide) }
  ranges :=
    { h.clearRx.ranges with
      txbuf_wf := Memory.wf_ofBytes f
      txbuf_inside := fun cell hcell => by
        have hlt := (Memory.mem_ofBytesFrom 0 f cell hcell).2
        rwa [Nat.zero_add, hf] at hlt
      phase_legal := by simp
      index_in_cell := fun _ => N_pos c
      index_in_hold := fun hp => absurd hp (by simp)
      index_le := Nat.zero_le _
      wait_le := Nat.zero_le _
      strobe_high := by simp
      data_held := fun hp => absurd hp (by simp)
      transmitter_configured := fun _ => hc }

/-- While a device transmits, rule R59 reads nothing of the transmitter but that its phase is not `OFF`. -/
theorem DeviceSafe.setTransmitter (h : DeviceSafe c v) (hm : v.mode = .transmitting) (strobe data : Bool) (p : TxPhase)
    (wait index : Nat) (hp : p ≠ .off) :
    DeviceSafe c { v with
      strobe_out := strobe, data_out := data, tx_phase := p, tx_wait := wait, tx_index := index } :=
  { h with
    transmitting := fun _ =>
      have ⟨hr, hd, ho, _⟩ := h.transmitting hm
      ⟨hr, hd, ho, hp⟩
    receiving := fun hr => absurd (hm.symm.trans hr) (by decide) }

theorem DeviceInv.txData (h : DeviceInv c v) (hp : v.tx_phase = .load) (hi : v.tx_index < c.N) :
    DeviceInv c { v with data_out := v.tx_buf.bit v.tx_index, tx_phase := .setup, tx_wait := c.t_bit_hold } where
  safe := h.safe.setTransmitter (h.safe.mode_of_phase (by simp [hp])) v.strobe_out _ .setup _ v.tx_index (by decide)
  ranges :=
    { h.ranges with
      phase_legal := by simp
      index_in_cell := fun _ => hi
      index_in_hold := fun hh => absurd hh (by simp)
      wait_le := Nat.le_max_left _ _
      strobe_high := by simp [h.ranges.strobe_high, hp]
      data_held := fun _ => rfl }

theorem DeviceInv.txRise (h : DeviceInv c v) (hp : v.tx_phase = .setup) :
    DeviceInv c { v with strobe_out := true, tx_phase := .high, tx_wait := c.t_pulse } where
  safe := h.safe.setTransmitter (h.safe.mode_of_phase (by simp [hp])) true v.data_out .high _ v.tx_index (by decide)
  ranges :=
    { h.ranges with
      phase_legal := by simp
      index_in_cell := fun _ => h.ranges.index_in_cell (by simp [hp])
      index_in_hold := fun hh => absurd hh (by simp)
      wait_le := Nat.le_trans (Nat.le_max_left _ _) (Nat.le_max_right _ _)
      strobe_high := by simp
      data_held := fun _ => h.ranges.data_held (by simp [hp]) }

theorem DeviceInv.txFall (h : DeviceInv c v) (hp : v.tx_phase = .high) :
    DeviceInv c { v with strobe_out := false, tx_phase := .low, tx_wait := c.t_bit_hold } where
  safe := h.safe.setTransmitter (h.safe.mode_of_phase (by simp [hp])) false v.data_out .low _ v.tx_index (by decide)
  ranges :=
    { h.ranges with
      phase_legal := by simp
      index_in_cell := fun _ => h.ranges.index_in_cell (by simp [hp])
      index_in_hold := fun hh => absurd hh (by simp)
      wait_le := Nat.le_max_left _ _
      strobe_high := by simp
      data_held := fun _ => h.ranges.data_held (by simp [hp]) }

theorem DeviceInv.txNext (h : DeviceInv c v) (hp : v.tx_phase = .low) (hi : v.tx_index < c.N - 1) :
    DeviceInv c { v with tx_index := v.tx_index + 1, tx_phase := .load } := by
  have hlt : v.tx_index + 1 < c.N := by omega
  exact
    { safe :=
        h.safe.setTransmitter (h.safe.mode_of_phase (by simp [hp])) v.strobe_out v.data_out .load v.tx_wait _ (by decide)
      ranges :=
        { h.ranges with
          phase_legal := by simp
          index_in_cell := fun _ => hlt
          index_in_hold := fun hh => absurd hh (by simp)
          index_le := Nat.le_of_lt hlt
          strobe_high := by simp [h.ranges.strobe_high, hp]
          data_held := fun hh => absurd hh (by simp) } }

theorem DeviceInv.txFramehold (h : DeviceInv c v) (hp : v.tx_phase = .low) :
    DeviceInv c { v with tx_index := c.N, tx_phase := .framehold, tx_wait := c.t_frame_hold } where
  safe :=
    h.safe.setTransmitter (h.safe.mode_of_phase (by simp [hp])) v.strobe_out v.data_out .framehold _ _ (by decide)
  ranges :=
    { h.ranges with
      phase_legal := by simp
      index_in_cell := fun hh => absurd hh (by simp)
      index_in_hold := fun _ => rfl
      index_le := Nat.le_refl _
      wait_le := Nat.le_trans (Nat.le_max_right _ _) (Nat.le_max_right _ _)
      strobe_high := by simp [h.ranges.strobe_high, hp]
      data_held := fun hh => absurd hh (by simp) }

theorem DeviceInv.txEnd (h : DeviceInv c v) (hp : v.tx_phase = .framehold) :
    DeviceInv c { v with
      pin_dir := .input, edge_pending := none, rx_enable := true, mode := .receiving, tx_phase := .off } := by
  have hconf := h.ranges.transmitter_configured (h.safe.mode_of_phase (by simp [hp]))
  have hlow : v.strobe_out = false := Bool.eq_false_iff.mpr fun hs => by
    rw [h.ranges.strobe_high, hp] at hs
    cases hs
  exact
    { safe :=
        { h.safe with
          transmitting := fun hm => absurd hm (by simp)
          receiving := fun _ => ⟨rfl, rfl, hlow⟩
          enabled := fun _ => ⟨hconf, rfl⟩
          unconfigured := fun hu => absurd (hconf.symm.trans hu) (by decide) }
      ranges :=
        { h.ranges with
          phase_legal := by simp
          index_in_cell := fun hh => absurd hh (by simp)
          index_in_hold := fun hh => absurd hh (by simp)
          strobe_high := by simp [hlow]
          data_held := fun hh => absurd hh (by simp)
          transmitter_configured := fun _ => hconf } }

end

/-- Every move keeps the invariant of the device. -/
theorem DeviceMove.deviceInv {c : Params} {y : Nat} {v u : Device} {i : Instr} (hc : 1 ≤ c.path_len)
    (h : DeviceInv c v) (hm : DeviceMove c y v i u) : DeviceInv c u := by
  cases hm with
  | same => exact h
  | sample d _ hr ho => exact h.sample d hr ho
  | edgeOverrun => exact h.edgeOverrun
  | edgeMasked => exact h.setEdge none
  | acceptRoom _ _ hcomp _ hq =>
    exact (h.pushFrame _ (h.safe.configured_of_complete hcomp) hq (Memory.bytes_length _ _)).clearRx.reasmDone
  | acceptFull _ _ hq => exact h.clearRx.reasmDone.setOverflow hq
  | discard => exact h.clearRx.reasmDone
  | reasmNop => exact h.reasmDone
  | txBegin _ f _ hf hconf _ _ => exact h.enterTransmit f (hf hc) hconf
  | txData hp hi => exact h.txData hp hi
  | txRise hp _ => exact h.txRise hp
  | txFall hp _ => exact h.txFall hp
  | txNext hp _ hi => exact h.txNext hp hi
  | txFramehold hp _ _ => exact h.txFramehold hp
  | txEnd hp _ => exact h.txEnd hp
  | configure id hrecv => exact h.configure id hrecv
  | poll f rest hq => exact h.popQueue f rest hq
  | push f hcomp _ hq hf =>
    exact h.pushFrame f (h.safe.configured_of_complete hcomp) hq (hf ▸ Memory.bytes_length _ _)
  | tick ht => exact h.tick ht
  | reset => exact deviceInv_initial c v.params

/-- Every step keeps the invariant of every device. -/
theorem step_deviceInv (s t : State) (y : Nat) (v w : Device) (hc : 1 ≤ s.cfg.path_len) (h : step s = .next t)
    (hv : s.devs[y]? = some v) (hw : t.devs[y]? = some w) (hi : DeviceInv s.cfg v) : DeviceInv s.cfg w := by
  rcases step_move s t y v w h hv hw with ⟨i, u, p, hm, rfl⟩ | ⟨p, rfl⟩
  · exact (hm.deviceInv hc hi).setEdge p
  · exact hi.setEdge p

end Sys2Proof.Machine
end

section
/-! PROOFS. The invariant at reset and at every step (rules R11, R59, R290 to R293), and what no step changes (rule R50). -/

namespace Sys2Proof.Machine

/-- `State.reset` lists two devices, each just reset with the parameters of log entry 1. -/
theorem mem_reset_devs (v : Device) (h : v ∈ State.reset.devs) : v = Device.initial DeviceParams.initial := by
  simpa [State.reset, State.start] using h

theorem reset_devs_length : State.reset.devs.length = 2 := rfl

theorem drivers_reset : drivers State.reset = [] := by
  rw [drivers_eq_nil]
  intro v hv
  rw [mem_reset_devs v hv]
  rfl

theorem inv_reset : Inv State.reset where
  layout_legal := by decide
  ndev_legal := Nat.le_of_eq reset_devs_length.symm
  device_safe := fun v hv => mem_reset_devs v hv ▸ (deviceInv_initial _ _).safe
  device_ranges := fun v hv => mem_reset_devs v hv ▸ (deviceInv_initial _ _).ranges
  link_safe := linkSafe_of_no_driver State.reset drivers_reset rfl

theorem legalLink_reset : LegalLink State.reset :=
  ⟨by decide, fun v hv => mem_reset_devs v hv ▸ by decide, Nat.le_of_eq reset_devs_length.symm⟩

/-- A device after a step was there before it. -/
theorem step_getElem?_of_getElem? (s t : State) (x : Nat) (w : Device) (h : step s = .next t)
    (hw : t.devs[x]? = some w) : ∃ v, s.devs[x]? = some v := by
  obtain ⟨-, hn⟩ := (step_linkEffect s t h).frame
  obtain ⟨hx, -⟩ := List.getElem?_eq_some_iff.mp hw
  exact ⟨_, List.getElem?_eq_getElem (hn ▸ hx)⟩

theorem Inv.deviceInv {s : State} (h : Inv s) (v : Device) (hv : v ∈ s.devs) : DeviceInv s.cfg v :=
  ⟨h.device_safe v hv, h.device_ranges v hv⟩

theorem step_params (s t : State) (x : Nat) (v w : Device) (h : step s = .next t) (hv : s.devs[x]? = some v)
    (hw : t.devs[x]? = some w) : w.params = v.params := by
  rcases step_move s t x v w h hv hw with ⟨i, u, p, hm, rfl⟩ | ⟨p, rfl⟩
  · exact hm.params_eq
  · rfl

end Sys2Proof.Machine

namespace Sys2Proof
open Machine

/-- Settles O45: the devices by `step_deviceInv`, one move at a time; the lines by `LinkEffect.linkSafe`. -/
theorem invariantKept : Obligations.InvariantKept := by
  intro s t hi h
  have hlink := step_linkEffect s t h
  obtain ⟨hc, hn⟩ := hlink.frame
  have hdev : ∀ w ∈ t.devs, DeviceInv t.cfg w := by
    intro w hw
    obtain ⟨y, hy⟩ := List.mem_iff_getElem?.mp hw
    obtain ⟨v, hv⟩ := step_getElem?_of_getElem? s t y w h hy
    rw [hc]
    exact step_deviceInv s t y v w hi.layout_legal h hv hy (hi.deviceInv v (List.mem_of_getElem? hv))
  exact
    { layout_legal := hc ▸ hi.layout_legal
      ndev_legal := hn ▸ hi.ndev_legal
      device_safe := fun w hw => (hdev w hw).safe
      device_ranges := fun w hw => (hdev w hw).ranges
      link_safe := hlink.linkSafe hi.link_safe }

/-- Settles O46. -/
theorem invariantAtReset : Obligations.InvariantAtReset := ⟨inv_reset, legalLink_reset⟩

/-- Settles O38. -/
theorem resetValues : Obligations.ResetValues :=
  ⟨fun v hv => by rw [mem_reset_devs v hv]; rfl, Nat.le_of_eq reset_devs_length.symm, rfl, rfl⟩

/-- Settles O49. -/
theorem parametersNeverChange : Obligations.ParametersNeverChange := by
  intro s t h
  obtain ⟨hc, hn⟩ := (step_linkEffect s t h).frame
  exact ⟨hc, hn, fun x v w hv hw => step_params s t x v w h hv hw⟩

end Sys2Proof
end

section
/-! PROOFS. How `bit_offset`, `mode` and the queue of a device move, and what other devices see: each read off `DeviceMove`
(rules R37, R47, R51, R62, R182, R231). -/

namespace Sys2Proof.Machine

section
variable {c : Params} {y : Nat} {v u : Device} {i : Instr}

theorem DeviceMove.bit_offset_cases (h : DeviceMove c y v i u) :
    u.bit_offset = v.bit_offset ∨
      (u.bit_offset = v.bit_offset + 1 ∧ v.bit_offset < c.N ∧ ∃ d, i = .sample y d) ∨
      (u.bit_offset = 0 ∧
        (i = .reasmAcceptSelf y ∨ i = .reasmAcceptCoord y ∨ i = .reasmReject y ∨ i = .reasmAbandon y ∨
          (∃ f, i = .txBegin y f) ∨ (∃ p k u, i = .send y p k u) ∨ (∃ a, i = .sendRequest y a) ∨
          (∃ a, i = .configure y a) ∨ i = .reset y)) := by
  cases h with
  | sample d _ _ ho => exact .inr (.inl ⟨rfl, ho, d, rfl⟩)
  | acceptRoom _ hi _ _ _ => exact .inr (.inr ⟨rfl, hi.imp_right .inl⟩)
  | acceptFull _ hi _ => exact .inr (.inr ⟨rfl, hi.imp_right .inl⟩)
  | discard _ hi => exact .inr (.inr ⟨rfl, .inr (.inr (hi.imp_right .inl))⟩)
  | txBegin _ f hi _ _ _ _ =>
    rcases hi with ⟨g, rfl⟩ | ⟨p, k, val, rfl⟩ | ⟨a, rfl⟩
    all_goals exact .inr (.inr ⟨rfl, by simp⟩)
  | configure id _ => exact .inr (.inr ⟨rfl, by simp⟩)
  | reset => exact .inr (.inr ⟨rfl, by simp⟩)
  | _ => exact .inl rfl

theorem DeviceMove.mode_cases (h : DeviceMove c y v i u) :
    u.mode = v.mode ∨
      (v.mode = .receiving ∧ u.mode = .transmitting ∧ BeginsTransmit y i) ∨
      (u.mode = .receiving ∧ (i = .txEnd y ∨ i = .reset y)) := by
  cases h with
  | txBegin _ f hi _ _ hm _ => exact .inr (.inl ⟨hm, rfl, hi⟩)
  | txEnd => exact .inr (.inr ⟨rfl, .inl rfl⟩)
  | reset => exact .inr (.inr ⟨rfl, .inr rfl⟩)
  | _ => exact .inl rfl

/-- The frame in the buffer is complete and the filter accepts it (rules R42, R173). -/
def holdsAcceptedFrame (c : Params) (v : Device) : Prop :=
  v.bit_offset = c.N ∧ frameAccepted v.own_id (v.raw.bytes c.NB) = true

/-- The filter on the buffer is the filter on its bytes (rule R173). -/
theorem frameAccepted_raw (c : Params) (v : Device) : frameAccepted v.own_id (v.raw.bytes c.NB) = accepts v := by
  have byte : ∀ a, a < 3 → (v.raw.bytes c.NB).getD a 0 = v.raw.read a := fun a ha => by
    rw [List.getD_eq_getElem?_getD, Memory.getElem?_bytes, if_pos (by rw [Params.NB]; omega), Option.getD_some]
  simp only [frameAccepted, accepts, selfRequest, coordinatorFrame, rawRecipient, frameRecipient, frameKindByte,
    byte 0 (by omega), byte 1 (by omega), byte 2 (by omega)]

theorem holdsAcceptedFrame_of (hc : complete c v = true) (ha : accepts v = true) : holdsAcceptedFrame c v :=
  ⟨by simpa [complete] using hc, (frameAccepted_raw c v).trans ha⟩

/-- The queue of a device: a gain by `REASM_ACCEPT` gives the buffer back, a gain by `PUSH` does not. -/
theorem DeviceMove.queue_cases (h : DeviceMove c y v i u) :
    u.queue = v.queue ∨
      (u.queue = v.queue ++ [v.raw.bytes c.NB] ∧ holdsAcceptedFrame c v ∧
        ((i = .reasmAcceptSelf y ∨ i = .reasmAcceptCoord y) ∧ u.raw = [] ∧ u.bit_offset = 0 ∨ ∃ f, i = .push y f)) ∨
      (∃ f, v.queue = f :: u.queue ∧ i = .poll y) ∨ (u.queue = [] ∧ i = .reset y) := by
  cases h with
  | acceptRoom _ hi hc ha _ => exact .inr (.inl ⟨rfl, holdsAcceptedFrame_of hc ha, .inl ⟨hi, rfl, rfl⟩⟩)
  | push f hc ha _ hf => exact .inr (.inl ⟨by rw [hf]; rfl, holdsAcceptedFrame_of hc ha, .inr ⟨f, rfl⟩⟩)
  | poll f rest hq => exact .inr (.inr (.inl ⟨f, hq, rfl⟩))
  | reset => exact .inr (.inr (.inr ⟨rfl, rfl⟩))
  | _ => exact .inl rfl

end

/-- `POLL` that shortens the queue returns the frame it removes (rule R225). -/
theorem poll_reports (x : Nat) (f : Frame) (rest : List Frame) (s t : State) (v : Device)
    (h : exec (.poll x) s = .next t) (hv : s.devs[x]? = some v) (hq : v.queue = f :: rest) :
    t.reports = .polled x (some f) :: s.reports := by
  obtain ⟨v', hv', -, hcases⟩ := (execPoll_eq_next x s t).mp h
  cases hv.symm.trans hv'
  rcases hcases with ⟨hnil, -⟩ | ⟨f', rest', hq', rfl⟩
  · cases hq.symm.trans hnil
  · cases hq.symm.trans hq'
    rfl

/-- What an instruction can do to a queue (rules R51, R182, R225, R228, R290). -/
theorem exec_queue_cases (i : Instr) (s t : State) (x : Nat) (v w : Device) (h : exec i s = .next t)
    (hv : s.devs[x]? = some v) (hw : t.devs[x]? = some w) :
    w.queue = v.queue ∨
      (w.queue = v.queue ++ [v.raw.bytes s.cfg.NB] ∧ holdsAcceptedFrame s.cfg v ∧
        ((i = .reasmAcceptSelf x ∨ i = .reasmAcceptCoord x) ∧ w.raw = [] ∧ w.bit_offset = 0 ∨ ∃ f, i = .push x f)) ∨
      (∃ f, v.queue = f :: w.queue ∧ i = .poll x ∧ t.reports = .polled x (some f) :: s.reports) ∨
      (w.queue = [] ∧ i = .reset x) := by
  obtain ⟨u, p, hm, rfl⟩ := exec_move i s t x v w h hv hw
  rcases hm.queue_cases with hq | hq | ⟨f, hq, rfl⟩ | hq
  · exact .inl hq
  · exact .inr (.inl hq)
  · exact .inr (.inr (.inl ⟨f, hq, rfl, poll_reports x f u.queue s t v h hv hq⟩))
  · exact .inr (.inr (.inr hq))

/-- No turn fetches `PUSH` (rule R228). -/
theorem fetch_ne_push (s : State) (x : Nat) (f : Frame) : fetch s ≠ .instr (.push x f) := by
  intro h
  unfold fetch fetchTurn at h
  split at h
  · cases h
  · split at h
    · split at h
      · cases h
      · next hi =>
        cases h
        exact hi ((isInternal_iff _).mpr (.inr rfl))
    · cases h

end Sys2Proof.Machine

namespace Sys2Proof
open Machine

/-- Settles O50. -/
theorem bitOffsetMoves : Obligations.BitOffsetMoves := by
  intro i s t x v w h hv hw
  obtain ⟨u, p, hm, rfl⟩ := exec_move i s t x v w h hv hw
  exact hm.bit_offset_cases

/-- Settles O51. -/
theorem modeMoves : Obligations.ModeMoves := by
  intro i s t x v w h hv hw
  obtain ⟨u, p, hm, rfl⟩ := exec_move i s t x v w h hv hw
  exact hm.mode_cases

/-- Settles O52: an instruction by `exec_queue_cases`; in a step the gain is no `PUSH`, since no turn fetches one, and a line
fault leaves the queue. -/
theorem queueMoves : Obligations.QueueMoves := by
  constructor
  · intro i s t x v w h hv hw
    rcases exec_queue_cases i s t x v w h hv hw with hq | ⟨hq, ⟨hb, ha⟩, hi⟩ | hq | hq
    · exact .inl hq
    · refine .inr (.inl ⟨hq, hb, ha, ?_⟩)
      rcases hi with ⟨hi | hi, -⟩ | hi
      · exact .inl hi
      · exact .inr (.inl hi)
      · exact .inr (.inr hi)
    · exact .inr (.inr (.inl hq))
    · exact .inr (.inr (.inr hq))
  · intro s t x v w h hv hw
    rcases (step_eq_next s t).mp h with ⟨i, hf, he⟩ | ⟨y, e, -, he⟩
    · rw [hf]
      rcases exec_queue_cases i (afterFetch s) t x v w he hv hw with
        hq | ⟨hq, ⟨hb, ha⟩, ⟨hi, hr, ho⟩ | ⟨f, rfl⟩⟩ | ⟨f, hq, rfl, hr⟩ | ⟨hq, rfl⟩
      · exact .inl hq
      · exact .inr (.inl ⟨hq, hb, ha, hr, ho, hi.imp (congrArg _) (congrArg _)⟩)
      · exact absurd hf (fetch_ne_push s x f)
      · exact .inr (.inr (.inl ⟨f, hq, rfl, hr⟩))
      · exact .inr (.inr (.inr ⟨hq, rfl⟩))
    · obtain ⟨p, rfl⟩ := applyLineFault_device y e (afterFetch s) t x v w he hv hw
      exact .inl rfl

/-- Settles O53: at a device it does not run at, an instruction has no effect but the edge that it delivers. -/
theorem otherDevicesSeeOnlyTheLines : Obligations.OtherDevicesSeeOnlyTheLines := by
  intro i s t y v w h htick hdev hv hw
  obtain ⟨u, heff, hedge⟩ := exec_device i s t y v w h hv hw
  have hu : u = v := by
    rcases heff with ⟨hy | ht, he⟩ | ⟨-, hu⟩
    · obtain rfl := hdev hy
      exact he
    · exact absurd ht htick
    · exact hu
  subst hu
  exact hedge

end Sys2Proof
end

section
/-! PROOFS. Operation words: the operands of a word are read back as they were written, the vector of an instruction selects its
row, and what a word decodes to has operands of the right sizes (log entry 2; rules R102, R110 to R113, R116, R124). -/

namespace Sys2Proof.Machine

/-! Writing, then reading, one lemma per operand layout. -/

theorem kindOperandBytes_append (rid : Address) (path : List Byte) (val : BitVec 64) (rest : List Byte) :
    kindOperandBytes rid path val ++ rest = leBytes 2 rid.toNat ++ (path ++ (leBytes 8 val.toNat ++ rest)) := by
  simp only [kindOperandBytes, List.append_assoc]

theorem readKindOperands_kindOperandBytes (c : Params) (rid : Address) (path : List Byte) (val : BitVec 64)
    (rest : List Byte) (k : Address → List Byte → BitVec 64 → Instr) (h : path.length = c.path_len) :
    readKindOperands c (kindOperandBytes rid path val ++ rest) k = .ok (k rid path val) := by
  have hlen : 2 + c.path_len + 8 ≤ (kindOperandBytes rid path val ++ rest).length := by
    simp only [kindOperandBytes, List.length_append, leBytes_length, h]
    omega
  have hid : (kindOperandBytes rid path val ++ rest).take 2 = leBytes 2 rid.toNat := by
    rw [kindOperandBytes_append, List.take_left' (leBytes_length 2 _)]
  have hpath : ((kindOperandBytes rid path val ++ rest).drop 2).take c.path_len = path := by
    rw [kindOperandBytes_append, List.drop_left' (leBytes_length 2 _), List.take_left' h]
  have hval : ((kindOperandBytes rid path val ++ rest).drop (2 + c.path_len)).take 8 = leBytes 8 val.toNat := by
    rw [kindOperandBytes_append, ← List.drop_drop, List.drop_left' (leBytes_length 2 _), List.drop_left' h,
      List.take_left' (leBytes_length 8 _)]
  rw [readKindOperands, if_pos hlen, hid, hpath, hval, ofNat_leNat_leBytes 2 16 rid (by decide),
    ofNat_leNat_leBytes 8 64 val (by decide)]

theorem readAddress_leBytes (a : Address) (rest : List Byte) (k : Address → Instr) :
    readAddress (leBytes 2 a.toNat ++ rest) k = .ok (k a) := by
  have hlen : 2 ≤ (leBytes 2 a.toNat ++ rest).length := by simp
  rw [readAddress, if_pos hlen, List.take_left' (leBytes_length 2 _), ofNat_leNat_leBytes 2 16 a (by decide)]

theorem readFrame_append (c : Params) (f : Frame) (rest : List Byte) (k : Frame → Instr) (h : f.length = c.NB) :
    readFrame c (f ++ rest) k = .ok (k f) := by
  have hlen : c.NB ≤ (f ++ rest).length := by simp [h]
  rw [readFrame, if_pos hlen, List.take_left' h]

theorem pathFits_iff (path : List Byte) : pathFits path = true ↔ path.length < 4294967296 := decide_eq_true_iff

theorem readData_dataOperandBytes (kind : Byte) (path : List Byte) (v : BitVec 64) (rest : List Byte)
    (k : Byte → List Byte → BitVec 64 → Instr) (hp : pathFits path = true) (hv : valueFits kind v = true) :
    readData (dataOperandBytes kind path v ++ rest) k = .ok (k kind path v) := by
  have hsplit : dataOperandBytes kind path v ++ rest =
      kind :: (leBytes 8 v.toNat ++ (leBytes 4 path.length ++ (path ++ rest))) := by
    simp only [dataOperandBytes, List.cons_append, List.append_assoc]
  have hlen : leNat (leBytes 4 path.length) = path.length := by
    rw [leNat_leBytes]
    exact Nat.mod_eq_of_lt ((pathFits_iff path).mp hp)
  have hdrop : (leBytes 8 v.toNat ++ (leBytes 4 path.length ++ (path ++ rest))).drop 12 = path ++ rest := by
    rw [← List.append_assoc, List.drop_left' (by simp)]
  rw [hsplit]
  simp only [readData, List.take_left' (leBytes_length 8 _), List.drop_left' (leBytes_length 8 _),
    List.take_left' (leBytes_length 4 _), hlen, hdrop, List.take_left' rfl, ofNat_leNat_leBytes 8 64 v (by decide), hv]
  rw [if_neg, if_neg, if_pos trivial]
  all_goals
    simp only [List.length_append, leBytes_length]
    omega

/-- The free bits of a reserved row stand below its pattern and are read back (rule R116). -/
theorem setWidth_or_setWidth {n : Nat} (hn : n ≤ 8) (p : Byte) (b : BitVec n) (hp : p.setWidth n = 0#n) :
    (p ||| b.setWidth 8).setWidth n = b := by
  rw [BitVec.setWidth_or, hp, BitVec.setWidth_setWidth_of_le b hn, BitVec.setWidth_eq, BitVec.zero_or]

theorem readKindOperands_reserved (c : Params) {n : Nat} (hn : n ≤ 8) (p : Byte) (b : BitVec n) (hp : p.setWidth n = 0#n)
    (rid : Address) (path : List Byte) (val : BitVec 64) (rest : List Byte)
    (k : BitVec n → Address → List Byte → BitVec 64 → Instr) (h : path.length = c.path_len) :
    readKindOperands c (kindOperandBytes rid path val ++ rest) (k ((p ||| b.setWidth 8).setWidth n)) =
      .ok (k b rid path val) := by
  rw [setWidth_or_setWidth hn p b hp, readKindOperands_kindOperandBytes c rid path val rest _ h]

/-- The level `d` of an edge row is bit 2 of its vector (rule R110). -/
theorem getLsbD_or_level (p : Byte) (d : Bool) (hp : p.getLsbD 2 = false) :
    (p ||| BitVec.ofNat 8 (4 * d.toNat)).getLsbD 2 = d := by
  rw [BitVec.getLsbD_or, hp]
  cases d <;> rfl

/-- The row of an instruction reads the instruction from its vector and operand bytes, whatever comes after them. -/
theorem readOperands_operandBytes (c : Params) (i : Instr) (rest : List Byte) (h : i.wellFormed c = true) :
    readOperands c i.dev i.vector (i.operandBytes ++ rest) i.row = .ok i := by
  cases i with
  | kindUnknown x r p v | kindRequestOnly x r p v | kindFloat x r p v | kindDouble x r p v | kindInt64 x r p v
  | kindUint64 x r p v => exact readKindOperands_kindOperandBytes c r p v rest _ (eq_of_beq h)
  | kindReserved6 x b r p v =>
    exact readKindOperands_reserved c (by decide) 0x06 b rfl r p v rest (.kindReserved6 x) (eq_of_beq h)
  | kindReserved8 x b r p v =>
    exact readKindOperands_reserved c (by decide) 0x08 b rfl r p v rest (.kindReserved8 x) (eq_of_beq h)
  | kindReserved16 x b r p v =>
    exact readKindOperands_reserved c (by decide) 0x10 b rfl r p v rest (.kindReserved16 x) (eq_of_beq h)
  | kindReserved32 x b r p v =>
    exact readKindOperands_reserved c (by decide) 0x20 b rfl r p v rest (.kindReserved32 x) (eq_of_beq h)
  | kindReserved64 x b r p v =>
    exact readKindOperands_reserved c (by decide) 0x40 b rfl r p v rest (.kindReserved64 x) (eq_of_beq h)
  | kindReserved128 x b r p v =>
    exact readKindOperands_reserved c (by decide) 0x80 b rfl r p v rest (.kindReserved128 x) (eq_of_beq h)
  | sample x d => exact congrArg (Except.ok ∘ Instr.sample x) (getLsbD_or_level 0x0A d rfl)
  | edgeOverrun x d => exact congrArg (Except.ok ∘ Instr.edgeOverrun x) (getLsbD_or_level 0x0B d rfl)
  | edgeMasked x d => exact congrArg (Except.ok ∘ Instr.edgeMasked x) (getLsbD_or_level 0x08 d rfl)
  | txBegin x f | decodeFrame x f | push x f => exact readFrame_append c f rest _ (eq_of_beq h)
  | configure x a | sendRequest x a | encodeRequest x a => exact readAddress_leBytes a rest _
  | send x p k v =>
    obtain ⟨hp, hv⟩ := Bool.and_eq_true_iff.mp h
    exact readData_dataOperandBytes k p v rest (fun k p v => .send x p k v) hp hv
  | encodeData x k p v =>
    obtain ⟨hp, hv⟩ := Bool.and_eq_true_iff.mp h
    exact readData_dataOperandBytes k p v rest (.encodeData x) hp hv
  | _ => rfl

/-! The vector of an instruction selects its row: the family `EncodeMatchesRow`, all 46 rows at once. -/

theorem encodeMatchesRow (i : Instr) : Laws.EncodeMatchesRow.Statement i := by
  cases i with
  | kindUnknown x r p v => exact Laws.EncodeMatchesRow.kindUnknown x r p v
  | kindRequestOnly x r p v => exact Laws.EncodeMatchesRow.kindRequestOnly x r p v
  | kindFloat x r p v => exact Laws.EncodeMatchesRow.kindFloat x r p v
  | kindDouble x r p v => exact Laws.EncodeMatchesRow.kindDouble x r p v
  | kindInt64 x r p v => exact Laws.EncodeMatchesRow.kindInt64 x r p v
  | kindUint64 x r p v => exact Laws.EncodeMatchesRow.kindUint64 x r p v
  | kindReserved6 x b r p v => exact Laws.EncodeMatchesRow.kindReserved6 x b r p v
  | kindReserved8 x b r p v => exact Laws.EncodeMatchesRow.kindReserved8 x b r p v
  | kindReserved16 x b r p v => exact Laws.EncodeMatchesRow.kindReserved16 x b r p v
  | kindReserved32 x b r p v => exact Laws.EncodeMatchesRow.kindReserved32 x b r p v
  | kindReserved64 x b r p v => exact Laws.EncodeMatchesRow.kindReserved64 x b r p v
  | kindReserved128 x b r p v => exact Laws.EncodeMatchesRow.kindReserved128 x b r p v
  | sample x d => exact Laws.EncodeMatchesRow.sample x d
  | edgeOverrun x d => exact Laws.EncodeMatchesRow.edgeOverrun x d
  | edgeMasked x d => exact Laws.EncodeMatchesRow.edgeMasked x d
  | noedgeLow x => exact Laws.EncodeMatchesRow.noedgeLow x
  | noedgeFall x => exact Laws.EncodeMatchesRow.noedgeFall x
  | noedgeHigh x => exact Laws.EncodeMatchesRow.noedgeHigh x
  | reasmAcceptSelf x => exact Laws.EncodeMatchesRow.reasmAcceptSelf x
  | reasmAcceptCoord x => exact Laws.EncodeMatchesRow.reasmAcceptCoord x
  | reasmReject x => exact Laws.EncodeMatchesRow.reasmReject x
  | reasmAbandon x => exact Laws.EncodeMatchesRow.reasmAbandon x
  | reasmNop x => exact Laws.EncodeMatchesRow.reasmNop x
  | txBegin x f => exact Laws.EncodeMatchesRow.txBegin x f
  | txData x => exact Laws.EncodeMatchesRow.txData x
  | txRise x => exact Laws.EncodeMatchesRow.txRise x
  | txFall x => exact Laws.EncodeMatchesRow.txFall x
  | txNext x => exact Laws.EncodeMatchesRow.txNext x
  | txFramehold x => exact Laws.EncodeMatchesRow.txFramehold x
  | txEnd x => exact Laws.EncodeMatchesRow.txEnd x
  | txWaitSetup x => exact Laws.EncodeMatchesRow.txWaitSetup x
  | txWaitHigh x => exact Laws.EncodeMatchesRow.txWaitHigh x
  | txWaitLow x => exact Laws.EncodeMatchesRow.txWaitLow x
  | txWaitFramehold x => exact Laws.EncodeMatchesRow.txWaitFramehold x
  | txUnreachable x => exact Laws.EncodeMatchesRow.txUnreachable x
  | configure x a => exact Laws.EncodeMatchesRow.configure x a
  | send x p k v => exact Laws.EncodeMatchesRow.send x p k v
  | sendRequest x a => exact Laws.EncodeMatchesRow.sendRequest x a
  | poll x => exact Laws.EncodeMatchesRow.poll x
  | encodeData x k p v => exact Laws.EncodeMatchesRow.encodeData x k p v
  | encodeRequest x a => exact Laws.EncodeMatchesRow.encodeRequest x a
  | decodeFrame x f => exact Laws.EncodeMatchesRow.decodeFrame x f
  | push x f => exact Laws.EncodeMatchesRow.push x f
  | tick => exact Laws.EncodeMatchesRow.tick
  | linkResolve => exact Laws.EncodeMatchesRow.linkResolve
  | reset x => exact Laws.EncodeMatchesRow.reset x

theorem findRow_vector (i : Instr) : findRow i.row.format i.vector = some i.row := by
  obtain ⟨-, honly⟩ := encodeMatchesRow i
  rw [findRow, ← List.head?_filter, honly, List.head?_cons]

theorem decode_encode (c : Params) (i : Instr) (rest : List Byte) (h : i.wellFormed c = true) :
    decode c i.dev (encode i ++ rest) = .ok i := by
  calc decode c i.dev (encode i ++ rest)
    _ = readOperands c i.dev i.vector (i.operandBytes ++ rest) i.row := decode_of_findRow _ _ _ _ _ _ (findRow_vector i)
    _ = .ok i := readOperands_operandBytes c i rest h

/-! What a reader answers, one lemma per operand layout. -/

theorem readKindOperands_eq_ok (c : Params) (args : List Byte) (k : Address → List Byte → BitVec 64 → Instr) (i : Instr)
    (h : readKindOperands c args k = .ok i) : ∃ rid path val, path.length = c.path_len ∧ i = k rid path val := by
  unfold readKindOperands at h
  split at h
  · next hlen =>
    cases h
    refine ⟨_, _, _, ?_, rfl⟩
    rw [List.length_take, List.length_drop]
    omega
  · cases h

theorem readAddress_eq_ok (args : List Byte) (k : Address → Instr) (i : Instr) (h : readAddress args k = .ok i) :
    ∃ a, i = k a := by
  unfold readAddress at h
  split at h
  · cases h
    exact ⟨_, rfl⟩
  · cases h

theorem readFrame_eq_ok (c : Params) (args : List Byte) (k : Frame → Instr) (i : Instr) (h : readFrame c args k = .ok i) :
    ∃ f : Frame, f.length = c.NB ∧ i = k f := by
  unfold readFrame at h
  split at h
  · next hlen =>
    cases h
    exact ⟨_, List.length_take_of_le hlen, rfl⟩
  · cases h

/-- A path that was read has the length its four length bytes give, which they can hold. -/
theorem readData_eq_ok (args : List Byte) (k : Byte → List Byte → BitVec 64 → Instr) (i : Instr)
    (h : readData args k = .ok i) :
    ∃ kind path v, (pathFits path && valueFits kind v) = true ∧ i = k kind path v := by
  cases args with
  | nil => cases h
  | cons kind rest =>
    simp only [readData] at h
    split at h
    · cases h
    · split at h
      · cases h
      · split at h
        · next hv =>
          cases h
          refine ⟨kind, _, _, Bool.and_eq_true_iff.mpr ⟨?_, hv⟩, rfl⟩
          have hn : leNat ((rest.drop 8).take 4) < 256 ^ 4 :=
            Nat.lt_of_lt_of_le (leNat_lt _) (Nat.pow_le_pow_right (by decide) (List.length_take_le 4 _))
          exact (pathFits_iff _).mpr (Nat.lt_of_le_of_lt (List.length_take_le _ _) hn)
        · cases h

/-- Everything a row can read: an instruction of that row, with operands of the right sizes, at the device of the word. -/
theorem readOperands_eq_ok (c : Params) (x : Nat) (w : Byte) (args : List Byte) (r : Row) (i : Instr)
    (h : readOperands c x w args r = .ok i) :
    i.wellFormed c = true ∧ (i.dev = x ∨ i = .tick ∨ i = .linkResolve) ∧ i.row = r := by
  cases r with
  | kindUnknown | kindRequestOnly | kindFloat | kindDouble | kindInt64 | kindUint64 | kindReserved6 | kindReserved8
  | kindReserved16 | kindReserved32 | kindReserved64 | kindReserved128 =>
    obtain ⟨rid, path, val, hp, rfl⟩ := readKindOperands_eq_ok c args _ i h
    exact ⟨beq_iff_eq.mpr hp, .inl rfl, rfl⟩
  | txBegin | decodeFrame | push =>
    obtain ⟨f, hf, rfl⟩ := readFrame_eq_ok c args _ i h
    exact ⟨beq_iff_eq.mpr hf, .inl rfl, rfl⟩
  | configure | sendRequest | encodeRequest =>
    obtain ⟨a, rfl⟩ := readAddress_eq_ok args _ i h
    exact ⟨rfl, .inl rfl, rfl⟩
  | send =>
    obtain ⟨kind, path, v, hfit, rfl⟩ := readData_eq_ok args (fun k p v => .send x p k v) i h
    exact ⟨hfit, .inl rfl, rfl⟩
  | encodeData =>
    obtain ⟨kind, path, v, hfit, rfl⟩ := readData_eq_ok args (.encodeData x) i h
    exact ⟨hfit, .inl rfl, rfl⟩
  | tick =>
    cases h
    exact ⟨rfl, .inr (.inl rfl), rfl⟩
  | linkResolve =>
    cases h
    exact ⟨rfl, .inr (.inr rfl), rfl⟩
  | _ =>
    cases h
    exact ⟨rfl, .inl rfl, rfl⟩

/-- The row a vector selects is one that the vector matches. -/
theorem matches_of_findRow (fmt : Format) (w : Byte) (r : Row) (h : findRow fmt w = some r) : r.matches w = true :=
  List.find?_some (p := fun r : Row => r.matches w) h

/-- Everything the decoder can answer: what the row that the first byte selects reads from the operand bytes. -/
theorem decode_eq_ok (c : Params) (x : Nat) (bytes : List Byte) (i : Instr) (h : decode c x bytes = .ok i) :
    ∃ w tag args fmt r, bytes = w :: tag :: args ∧ formatOf w tag = .ok fmt ∧ findRow fmt w = some r ∧
      readOperands c x w args r = .ok i := by
  unfold decode at h
  split at h
  · next w tag args =>
    split at h
    · cases h
    · next fmt hf =>
      split at h
      · cases h
      · next r hr => exact ⟨w, tag, args, fmt, r, rfl, hf, hr, h⟩
  · cases h

end Sys2Proof.Machine

namespace Sys2Proof
open Machine

/-- Settles O42: the vector of the instruction selects its row, and the row reads the operands back. -/
theorem decodeEncode : Obligations.DecodeEncode := decode_encode

/-- Settles O43: the row that the first byte selects reads instructions of that row only. -/
theorem decodedIsWellFormed : Obligations.DecodedIsWellFormed := by
  intro c x bytes i h
  obtain ⟨w, tag, args, fmt, r, rfl, -, hr, hi⟩ := decode_eq_ok c x bytes i h
  obtain ⟨hwf, hdev, rfl⟩ := readOperands_eq_ok c x w args r i hi
  exact ⟨hwf, hdev, matches_of_findRow fmt w _ hr⟩

/-- Settles O41: on a fixed word the decoder computes. -/
theorem tableWordsDecode : Obligations.TableWordsDecode :=
  ⟨rfl, rfl, rfl, rfl, rfl, rfl, rfl, rfl, rfl, rfl, rfl⟩

end Sys2Proof
end

section
/-! PROOFS. The rows of `TXPH`: which row the transmitter of a device fetches, and the rows that are no operations (rule R112). -/

namespace Sys2Proof.Machine

/-- What the transmitter of a device fetches: what the row of its phase, `tx_wait` and `tx_index` reads. -/
theorem fetchTurn_txph (s : State) (x : Nat) (code : Byte) (args : List Byte) (v : Device) (r : Row) (i : Instr)
    (hv : s.devs[x]? = some v) (hr : txphRowOf v.tx_phase (v.tx_wait == 0) (v.tx_index == s.cfg.N - 1) = r)
    (hi : readOperands s.cfg x (txphVector s v) args r = .ok i) :
    fetchTurn s (.op .txph x code args) = if isInternal i then .internal i else .instr i := by
  refine fetchTurn_op s .txph x code args r i ?_ ?_
  · rw [vectorOf_txph s x code v hv, txphVector, findRow_txph, hr]
  · rw [vectorOf_txph s x code v hv, hi]

/-- A row without operands is fetched to be run. -/
theorem fetchTurn_txTurn (s : State) (x : Nat) (v : Device) (r : Row) (i : Instr) (hv : s.devs[x]? = some v)
    (hr : txphRowOf v.tx_phase (v.tx_wait == 0) (v.tx_index == s.cfg.N - 1) = r)
    (hi : readOperands s.cfg x (txphVector s v) [] r = .ok i) (hrun : isInternal i = false) :
    fetchTurn s (txTurn x) = .instr i := by
  rw [txTurn, fetchTurn_txph s x 0 [] v r i hv hr hi, hrun, if_neg Bool.false_ne_true]

/-- In a phase whose row does not look at `tx_index`, the row is one of two, by `tx_wait`. -/
theorem fetchTurn_txTurn_by_wait (s : State) (x : Nat) (v : Device) (r r' : Row) (i i' : Instr)
    (hv : s.devs[x]? = some v) (hr : ∀ w l, txphRowOf v.tx_phase w l = if w then r else r')
    (hi : readOperands s.cfg x (txphVector s v) [] r = .ok i) (hi' : readOperands s.cfg x (txphVector s v) [] r' = .ok i')
    (hrun : isInternal i = false) (hrun' : isInternal i' = false) :
    fetchTurn s (txTurn x) = .instr (if v.tx_wait = 0 then i else i') := by
  by_cases hw : v.tx_wait = 0
  · rw [if_pos hw]
    exact fetchTurn_txTurn s x v r i hv (by rw [hr, hw]; rfl) hi hrun
  · rw [if_neg hw]
    exact fetchTurn_txTurn s x v r' i' hv (by rw [hr, beq_false_of_ne hw]; rfl) hi' hrun'

theorem waitInPhase_of_phase (s : State) (x : Nat) (v : Device) (p : TxPhase) (hv : s.devs[x]? = some v)
    (hp : v.tx_phase = p) (hw : v.tx_wait ≠ 0) : waitInPhase x p s = .next s :=
  (waitInPhase_eq_next s s x p).mpr ⟨v, hv, ⟨hp, hw⟩, rfl⟩

end Sys2Proof.Machine

namespace Sys2Proof
open Machine

/-- Settles O20: the laws of `waitInPhase` and `execTxUnreachable`, read from guard to next state. -/
theorem txRowsThatAreNoOperations : Obligations.TxRowsThatAreNoOperations := by
  intro s x v hv
  refine ⟨fun hw => ⟨fun hp => ?_, fun hp => ?_, fun hp => ?_, fun hp => ?_⟩, fun hp => ?_⟩
  · exact waitInPhase_of_phase s x v .setup hv hp hw
  · exact waitInPhase_of_phase s x v .high hv hp hw
  · exact waitInPhase_of_phase s x v .low hv hp hw
  · exact waitInPhase_of_phase s x v .framehold hv hp hw
  · exact (execTxUnreachable_eq_next x s s).mpr ⟨v, hv, hp, rfl⟩

/-- Settles O21: the bits of the vector are the phase and the two conditions, and `txphRowOf` is the table of `TXPH` over them. -/
theorem transmitterSelectsItsRow : Obligations.TransmitterSelectsItsRow := by
  intro s x v hv
  refine ⟨fun hp => ?_, fun hp => ?_, fun hp => ?_, fun hp => ?_, fun hp => ?_, fun hp => ?_, fun hp f hf => ?_⟩
  · exact fetchTurn_txTurn s x v .txData _ hv (by rw [hp]; rfl) rfl rfl
  · exact fetchTurn_txTurn_by_wait s x v .txRise .txWaitSetup _ _ hv (fun w l => by rw [hp]; rfl) rfl rfl rfl rfl
  · exact fetchTurn_txTurn_by_wait s x v .txFall .txWaitHigh _ _ hv (fun w l => by rw [hp]; rfl) rfl rfl rfl rfl
  · by_cases hw : v.tx_wait = 0
    · by_cases hl : v.tx_index = s.cfg.N - 1
      · rw [if_pos hw, if_pos hl]
        exact fetchTurn_txTurn s x v .txFramehold _ hv (by rw [hp, hw, beq_iff_eq.mpr hl]; rfl) rfl rfl
      · rw [if_pos hw, if_neg hl]
        exact fetchTurn_txTurn s x v .txNext _ hv (by rw [hp, hw, beq_false_of_ne hl]; rfl) rfl rfl
    · rw [if_neg hw]
      exact fetchTurn_txTurn s x v .txWaitLow _ hv (by rw [hp, beq_false_of_ne hw]; rfl) rfl rfl
  · exact fetchTurn_txTurn_by_wait s x v .txEnd .txWaitFramehold _ _ hv (fun w l => by rw [hp]; rfl) rfl rfl rfl rfl
  · have hr : txphRowOf v.tx_phase (v.tx_wait == 0) (v.tx_index == s.cfg.N - 1) = .txUnreachable := by
      rcases hp with hp | hp <;> rw [hp] <;> rfl
    exact fetchTurn_txTurn s x v .txUnreachable _ hv hr rfl rfl
  · have hread : readOperands s.cfg x (txphVector s v) f .txBegin = .ok (.txBegin x f) := by
      have h := readFrame_append s.cfg f [] (.txBegin x) hf
      rwa [List.append_nil] at h
    rw [fetchTurn_txph s x 0 f v .txBegin _ hv (by rw [hp]; rfl) hread]
    rfl

end Sys2Proof
end

section
/-! PROOFS. The rows of `FRAME.kind`: each reads a frame of its code as `DECODE` reads it (rules R102, R104, R116, R136). -/

namespace Sys2Proof.Machine

/-- Every code from 6 up is a reserved kind (rule R116). -/
theorem kindOf_of_six_le (k : Byte) (h : 6 ≤ k.toNat) : kindOf k = .reserved k := by
  have hne : ∀ n : Byte, n.toNat < 6 → k ≠ n := by
    rintro n hn rfl
    omega
  rw [kindOf, if_neg (hne 0 (by decide)), if_neg (hne 1 (by decide)), if_neg (hne 2 (by decide)),
    if_neg (hne 3 (by decide)), if_neg (hne 4 (by decide)), if_neg (hne 5 (by decide))]

/-- The free bits of a reserved row fill the zeros of its pattern, so the code is their sum. -/
theorem or_setWidth_eq_ofNat_add {n : Nat} (q : Nat) (b : BitVec n) :
    BitVec.ofNat 8 (2 ^ n * q) ||| b.setWidth 8 = BitVec.ofNat 8 (2 ^ n * q + b.toNat) := by
  rw [Nat.two_pow_add_eq_or_of_lt b.isLt, BitVec.ofNat_or, BitVec.ofNat_toNat]

/-- The value field written from a 64-bit pattern, read as a `FLOAT`: its low 32 bits (rule R104). -/
theorem value32_leBytes (val : BitVec 64) : value32 (leBytes 8 val.toNat) = .bits32 (val.setWidth 32) := by
  have htake : (leBytes 8 val.toNat).take 4 = leBytes 4 val.toNat := rfl
  have hmod : BitVec.ofNat 32 (val.toNat % 256 ^ 4) = val.setWidth 32 := by
    apply BitVec.eq_of_toNat_eq
    simp
  rw [value32, htake, leNat_leBytes, hmod]

theorem value64_leBytes (val : BitVec 64) : value64 (leBytes 8 val.toNat) = .bits64 val := by
  rw [value64, List.take_of_length_le (by simp), ofNat_leNat_leBytes 8 64 val (by decide)]

/-- A reading that gives the view of the four fields is the reading `DECODE` makes of the frame. -/
theorem reportReading_eq_decodeView (s : State) (x : Nat) (v : Device) (rid : Address) (path : List Byte) (val : BitVec 64)
    (k : Byte) (kind : Kind) (value : Option Value) (hv : s.devs[x]? = some v) (hl : path.length = s.cfg.path_len)
    (hk : kindOf k = kind) (hval : valueOf kind (leBytes 8 val.toNat) = value) :
    reportReading s x path { recipient_id := rid, kind := kind, path := pathText path, value := value } =
      .next (s.report (.decoded x (decodeView s.cfg (assembleFrame rid k path (leBytes 8 val.toNat))))) := by
  refine (reportReading_eq_next _ _ _ _ _).mpr ⟨⟨v, hv⟩, hl, ?_⟩
  rw [decodeView_assembleFrame s.cfg rid k path _ hl (leBytes_length 8 _), hk, hval]

theorem reportReserved_eq_decodeView (s : State) (x : Nat) (v : Device) (rid : Address) (path : List Byte) (val : BitVec 64)
    {n : Nat} (q : Nat) (b : BitVec n) (hv : s.devs[x]? = some v) (hl : path.length = s.cfg.path_len)
    (h6 : 6 ≤ 2 ^ n * q) (h256 : 2 ^ n * q + 2 ^ n ≤ 256) :
    reportReserved s x (BitVec.ofNat 8 (2 ^ n * q) ||| b.setWidth 8) rid path =
      .next (s.report (.decoded x (decodeView s.cfg
        (assembleFrame rid (BitVec.ofNat 8 (2 ^ n * q + b.toNat)) path (leBytes 8 val.toNat))))) := by
  have hb := b.isLt
  have hcode : (BitVec.ofNat 8 (2 ^ n * q + b.toNat)).toNat = 2 ^ n * q + b.toNat := by
    rw [BitVec.toNat_ofNat, Nat.mod_eq_of_lt (by omega)]
  rw [or_setWidth_eq_ofNat_add q b]
  exact reportReading_eq_decodeView s x v rid path val _ _ none hv hl (kindOf_of_six_le _ (by omega)) rfl

end Sys2Proof.Machine

namespace Sys2Proof
open Machine

/-- Settles O33: a named row by the value it reads from the field, a reserved row `2 ^ n * q` by its `n` free bits. -/
theorem kindRowsReadAsDecodeDoes : Obligations.KindRowsReadAsDecodeDoes := by
  intro s x v rid path val i code hv hl h
  rcases h with ⟨rfl, rfl⟩ | ⟨rfl, rfl⟩ | ⟨rfl, rfl⟩ | ⟨rfl, rfl⟩ | ⟨rfl, rfl⟩ | ⟨rfl, rfl⟩ | ⟨b, rfl, rfl⟩ | ⟨b, rfl, rfl⟩ |
    ⟨b, rfl, rfl⟩ | ⟨b, rfl, rfl⟩ | ⟨b, rfl, rfl⟩ | ⟨b, rfl, rfl⟩
  · exact reportReading_eq_decodeView s x v rid path val 0 .unknown none hv hl rfl rfl
  · exact reportReading_eq_decodeView s x v rid path val 1 .requestOnly none hv hl rfl rfl
  · exact reportReading_eq_decodeView s x v rid path val 2 .float _ hv hl rfl (congrArg some (value32_leBytes val))
  · exact reportReading_eq_decodeView s x v rid path val 3 .double _ hv hl rfl (congrArg some (value64_leBytes val))
  · exact reportReading_eq_decodeView s x v rid path val 4 .int64 _ hv hl rfl (congrArg some (value64_leBytes val))
  · exact reportReading_eq_decodeView s x v rid path val 5 .uint64 _ hv hl rfl (congrArg some (value64_leBytes val))
  · exact reportReserved_eq_decodeView s x v rid path val 3 b hv hl (by decide) (by decide)
  · exact reportReserved_eq_decodeView s x v rid path val 1 b hv hl (by decide) (by decide)
  · exact reportReserved_eq_decodeView s x v rid path val 1 b hv hl (by decide) (by decide)
  · exact reportReserved_eq_decodeView s x v rid path val 1 b hv hl (by decide) (by decide)
  · exact reportReserved_eq_decodeView s x v rid path val 1 b hv hl (by decide) (by decide)
  · exact reportReserved_eq_decodeView s x v rid path val 1 b hv hl (by decide) (by decide)

end Sys2Proof
end

section
/-! PROOFS. The codec: the bytes that the encoders put at each address, and the fields that `DECODE` reads from any bytes
(rules R133 to R139). -/

namespace Sys2Proof.Machine

/-! The domain of `ENCODE_DATA` -/

theorem noZeroByte_iff (p : List Byte) : noZeroByte p = true ↔ ∀ b ∈ p, b ≠ 0 := by
  simp [noZeroByte]

theorem noZeroByte_eq_false_iff (p : List Byte) : noZeroByte p = false ↔ (0 : Byte) ∈ p := by
  simp [noZeroByte]

theorem isValueKind_iff (k : Byte) : isValueKind k = true ↔ k = 2 ∨ k = 3 ∨ k = 4 ∨ k = 5 := by
  simp [isValueKind, or_assoc]

/-- `ENCODE_DATA` outside its domain (log entry 25). -/
theorem execEncodeData_refused (x : Nat) (kind : Byte) (path : List Byte) (val : BitVec 64) (s : State) (v : Device)
    (hv : s.devs[x]? = some v) (h : noZeroByte path = false ∨ isValueKind kind = false) :
    ∃ r, execEncodeData x kind path val s = .refused r := by
  rw [execEncodeData, onDev_some s x _ v hv]
  by_cases hp : noZeroByte path = false
  · exact ⟨_, if_pos hp⟩
  · exact ⟨_, (if_neg hp).trans (if_pos (h.resolve_left hp))⟩

/-! The bytes of an assembled frame -/

theorem getD_append_of_lt (a b : List Byte) (j : Nat) (h : j < a.length) : (a ++ b).getD j 0 = a.getD j 0 := by
  simp only [List.getD_eq_getElem?_getD, List.getElem?_append_left h]

theorem getD_append_of_le (a b : List Byte) (j : Nat) (h : a.length ≤ j) :
    (a ++ b).getD j 0 = b.getD (j - a.length) 0 := by
  simp only [List.getD_eq_getElem?_getD, List.getElem?_append_right h]

theorem getD_assembleFrame_path (rid : Address) (k : Byte) (path val : List Byte) (j : Nat) (h : j < path.length) :
    (assembleFrame rid k path val).getD (3 + j) 0 = path.getD j 0 := by
  have h3 : 3 + j = j + 1 + 1 + 1 := by omega
  simp only [assembleFrame, leBytes, List.cons_append, List.nil_append, h3, List.getD_cons_succ]
  exact getD_append_of_lt path val j h

theorem getD_assembleFrame_value (rid : Address) (k : Byte) (path val : List Byte) (j : Nat) :
    (assembleFrame rid k path val).getD (3 + path.length + j) 0 = val.getD j 0 := by
  have h3 : 3 + path.length + j = path.length + j + 1 + 1 + 1 := by omega
  simp only [assembleFrame, leBytes, List.cons_append, List.nil_append, h3, List.getD_cons_succ]
  rw [getD_append_of_le path val _ (Nat.le_add_right _ _), Nat.add_sub_cancel_left]

/-! The value field -/

theorem getD_leBytes (n v j : Nat) : (leBytes n v).getD j 0 = if j < n then BitVec.ofNat 8 (v / 256 ^ j) else 0 := by
  rw [List.getD_eq_getElem?_getD, getElem?_leBytes]
  split <;> rfl

theorem valField_float (v : BitVec 64) : valField 2 v = leBytes 4 v.toNat ++ zeros 4 := rfl

theorem valField_of_64_bits (k : Byte) (v : BitVec 64) (h : k = 3 ∨ k = 4 ∨ k = 5) : valField k v = leBytes 8 v.toNat := by
  rcases h with rfl | rfl | rfl <;> rfl

/-- Byte `j` of a value field (rule R137): of a `FLOAT` the last four bytes are 0. -/
theorem getD_valField (k : Byte) (v : BitVec 64) (j : Nat) (hk : k = 2 ∨ k = 3 ∨ k = 4 ∨ k = 5) (hj : j < 8) :
    (valField k v).getD j 0 = if k = 2 ∧ 4 ≤ j then 0 else BitVec.ofNat 8 (v.toNat / 256 ^ j) := by
  rcases hk with rfl | hk
  · have hlen : (leBytes 4 v.toNat).length = 4 := leBytes_length 4 _
    rw [valField_float]
    by_cases h4 : j < 4
    · rw [getD_append_of_lt _ _ _ (by omega), getD_leBytes, if_pos h4, if_neg (by omega)]
    · rw [getD_append_of_le _ _ _ (by omega), getD_zeros, if_pos ⟨rfl, by omega⟩]
  · have hne : k ≠ 2 := by rcases hk with rfl | rfl | rfl <;> decide
    rw [valField_of_64_bits k v hk, getD_leBytes, if_pos hj, if_neg fun h => hne h.1]

/-! The bytes of the frames that the encoders build -/

theorem getD_encodeDataFrame_path (c : Params) (k : Byte) (p : List Byte) (v : BitVec 64) (hc : 1 ≤ c.path_len) (j : Nat)
    (hj : j < c.path_len) :
    (encodeDataFrame c k p v).getD (3 + j) 0 = if j < c.path_len - 1 then p.getD j 0 else 0 := by
  rw [encodeDataFrame, getD_assembleFrame_path _ _ _ _ j (by rwa [pathField_length c p hc]), getD_pathField]

theorem getD_encodeDataFrame_value (c : Params) (k : Byte) (p : List Byte) (v : BitVec 64) (hc : 1 ≤ c.path_len)
    (hk : k = 2 ∨ k = 3 ∨ k = 4 ∨ k = 5) (j : Nat) (hj : j < 8) :
    (encodeDataFrame c k p v).getD (3 + c.path_len + j) 0 =
      if k = 2 ∧ 4 ≤ j then 0 else BitVec.ofNat 8 (v.toNat / 256 ^ j) := by
  have h := getD_assembleFrame_value 0 k (pathField c p) (valField k v) j
  rwa [pathField_length c p hc, getD_valField k v j hk hj] at h

theorem encodeDataFrame_kindByte (c : Params) (k : Byte) (p : List Byte) (v : BitVec 64) :
    (encodeDataFrame c k p v).getD 2 0 = k := frameKindByte_assembleFrame _ _ _ _

/-- The path field of a data frame ends in a 0 byte (rule R139). -/
theorem encodeDataFrame_path_ends (c : Params) (k : Byte) (p : List Byte) (v : BitVec 64) (hc : 1 ≤ c.path_len) :
    (encodeDataFrame c k p v).getD (2 + c.path_len) 0 = 0 := by
  rw [show 2 + c.path_len = 3 + (c.path_len - 1) by omega, getD_encodeDataFrame_path c k p v hc _ (by omega),
    if_neg (Nat.lt_irrefl _)]

/-- After its three header bytes a request frame is all zeros (rule R135). -/
theorem encodeRequestFrame_eq (c : Params) (t : Address) :
    encodeRequestFrame c t =
      [BitVec.ofNat 8 t.toNat, BitVec.ofNat 8 (t.toNat / 256), 1] ++ List.replicate (c.path_len + 8) 0 := by
  rw [← List.replicate_append_replicate]
  rfl

theorem encodeRequestFrame_kindByte (c : Params) (t : Address) : (encodeRequestFrame c t).getD 2 0 = 1 := rfl

/-- The path field of a request frame ends in a 0 byte (rule R139). -/
theorem encodeRequestFrame_path_ends (c : Params) (t : Address) (hc : 1 ≤ c.path_len) :
    (encodeRequestFrame c t).getD (2 + c.path_len) 0 = 0 := by
  rw [show 2 + c.path_len = 3 + (c.path_len - 1) by omega, encodeRequestFrame,
    getD_assembleFrame_path _ _ _ _ _ (by rw [zeros_length]; omega), getD_zeros]

/-! What `DECODE` reads -/

theorem frameRecipient_toNat (f : Frame) :
    (frameRecipient f).toNat = (f.getD 0 0).toNat + 256 * (f.getD 1 0).toNat := by
  have h0 := (f.getD 0 0).isLt
  have h1 := (f.getD 1 0).isLt
  rw [frameRecipient, le16, BitVec.toNat_ofNat]
  omega

theorem framePathField_length (c : Params) (f : Frame) (h : f.length = c.NB) :
    (framePathField c f).length = c.path_len := by
  rw [Params.NB] at h
  rw [framePathField, List.length_take, List.length_drop]
  omega

theorem getElem?_framePathField (c : Params) (f : Frame) (j : Nat) (hj : j < c.path_len) :
    (framePathField c f)[j]? = f[3 + j]? := by
  rw [framePathField, List.getElem?_take_of_lt hj, List.getElem?_drop]

theorem getD_framePathField (c : Params) (f : Frame) (j : Nat) (hj : j < c.path_len) :
    (framePathField c f).getD j 0 = f.getD (3 + j) 0 := by
  simp only [List.getD_eq_getElem?_getD, getElem?_framePathField c f j hj]

theorem pathText_length_le (P : List Byte) : (pathText P).length ≤ P.length :=
  (List.takeWhile_prefix _).length_le

/-- The bytes of the path are those of the field, none of them 0 (rule R136). -/
theorem getElem?_pathText (P : List Byte) (j : Nat) (hj : j < (pathText P).length) :
    (pathText P)[j]? = P[j]? ∧ P.getD j 0 ≠ 0 := by
  have hP : P[j]? = some (pathText P)[j] := List.prefix_iff_getElem?.mp (List.takeWhile_prefix _) j hj
  have hmem : (pathText P)[j] ∈ pathText P := List.getElem_mem hj
  have hne : (pathText P)[j] ≠ 0 := (noZeroByte_iff (pathText P)).mp List.all_takeWhile _ hmem
  refine ⟨by rw [hP, List.getElem?_eq_getElem hj], ?_⟩
  rwa [List.getD_eq_getElem?_getD, hP, Option.getD_some]

/-- The path ends only at a 0 byte or at the end of its field (rule R136). -/
theorem getD_pathText_length (P : List Byte) : P.getD (pathText P).length 0 = 0 := by
  induction P with
  | nil => rfl
  | cons b P ih =>
    by_cases hb : b = 0
    · subst hb; rfl
    · have hcons : pathText (b :: P) = b :: pathText P := List.takeWhile_cons_of_pos (by simpa using hb)
      rw [hcons, List.length_cons, List.getD_cons_succ, ih]

/-- One byte more adds that byte at its place (rule R17). -/
theorem leNat_take_succ (l : List Byte) (n : Nat) :
    leNat (l.take (n + 1)) = leNat (l.take n) + (l.getD n 0).toNat * 2 ^ (8 * n) := by
  induction n generalizing l with
  | zero => cases l <;> simp [leNat]
  | succ n ih =>
    cases l with
    | nil => simp [leNat]
    | cons b l =>
      have hpow : 2 ^ (8 * (n + 1)) = 256 * 2 ^ (8 * n) := by rw [Nat.mul_succ, Nat.pow_add, Nat.mul_comm]
      rw [List.take_succ_cons, List.take_succ_cons, leNat, leNat, ih, List.getD_cons_succ, hpow, Nat.mul_add,
        Nat.add_assoc, Nat.mul_left_comm]

/-- The number in the first `n` bytes of a sequence, as a sum; bytes beyond its end count as 0 (rule R17). -/
theorem leNat_take (l : List Byte) (n : Nat) :
    leNat (l.take n) = ((List.range n).map fun j => (l.getD j 0).toNat * 2 ^ (8 * j)).sum := by
  induction n with
  | zero => rfl
  | succ n ih =>
    rw [leNat_take_succ, ih, List.range_succ, List.map_append, List.sum_append_nat, List.map_cons, List.map_nil,
      List.sum_cons, List.sum_nil, Nat.add_zero]

/-- The number in the first `n` bytes of the value field (rules R104, R136). -/
theorem leNat_frameValueField (c : Params) (f : Frame) (n : Nat) (hn : n ≤ 8) :
    leNat ((frameValueField c f).take n) =
      ((List.range n).map fun j => (f.getD (3 + c.path_len + j) 0).toNat * 2 ^ (8 * j)).sum := by
  rw [frameValueField, List.take_take, Nat.min_eq_left hn, leNat_take]
  simp only [List.getD_eq_getElem?_getD, List.getElem?_drop]

/-- The number in `n` bytes fits a word of `n` bytes. -/
theorem toNat_ofNat_leNat_take (l : List Byte) (n w : Nat) (h : 256 ^ n = 2 ^ w) :
    (BitVec.ofNat w (leNat (l.take n))).toNat = leNat (l.take n) := by
  have hlt : leNat (l.take n) < 2 ^ w :=
    calc leNat (l.take n) < 256 ^ (l.take n).length := leNat_lt _
      _ ≤ 256 ^ n := Nat.pow_le_pow_right (by decide) (List.length_take_le _ _)
      _ = 2 ^ w := h
  rw [BitVec.toNat_ofNat, Nat.mod_eq_of_lt hlt]

theorem valueOf_kindOf_float (k : Byte) (V : List Byte) (h : k = 2) : valueOf (kindOf k) V = some (value32 V) := by
  rw [h]; rfl

theorem valueOf_kindOf_64_bits (k : Byte) (V : List Byte) (h : k = 3 ∨ k = 4 ∨ k = 5) :
    valueOf (kindOf k) V = some (value64 V) := by
  rcases h with rfl | rfl | rfl <;> rfl

theorem valueOf_kindOf_none (k : Byte) (V : List Byte) (h : ¬(k = 2 ∨ k = 3 ∨ k = 4 ∨ k = 5)) :
    valueOf (kindOf k) V = none := by
  simp only [not_or] at h
  obtain ⟨h2, h3, h4, h5⟩ := h
  rw [kindOf, if_neg h2, if_neg h3, if_neg h4, if_neg h5]
  split
  · rfl
  · split <;> rfl

/-! What `DECODE` gives of an encoded frame -/

theorem pathText_append_zeros (q : List Byte) (n : Nat) (h : ∀ b ∈ q, b ≠ 0) : pathText (q ++ zeros n) = q := by
  rw [pathText, List.takeWhile_append_of_pos (by simpa using h), zeros, List.takeWhile_replicate]
  simp

/-- The path that a path field denotes is the path it was made of, cut where the field cut it (rules R133, R138). -/
theorem pathText_pathField (c : Params) (p : List Byte) (h : ∀ b ∈ p, b ≠ 0) :
    pathText (pathField c p) = if p.length ≤ c.path_len - 1 then p else p.take (c.path_len - 1) := by
  unfold pathField
  split
  · exact pathText_append_zeros p _ h
  · exact pathText_append_zeros _ 1 fun b hb => h b (List.mem_of_mem_take hb)

/-- A 32-bit value is in the first four bytes, which a `FLOAT` field has in common with a 64-bit one (rule R137). -/
theorem value32_valField_float (v : BitVec 64) : value32 (valField 2 v) = .bits32 (v.setWidth 32) :=
  calc value32 (valField 2 v) = value32 (leBytes 8 v.toNat) := rfl
    _ = .bits32 (v.setWidth 32) := value32_leBytes v

theorem value64_valField (k : Byte) (v : BitVec 64) (h : k = 3 ∨ k = 4 ∨ k = 5) : value64 (valField k v) = .bits64 v := by
  rw [valField_of_64_bits k v h, value64_leBytes]

theorem decodeView_encodeDataFrame (c : Params) (k : Byte) (p : List Byte) (v : BitVec 64) (hc : 1 ≤ c.path_len)
    (hp : ∀ b ∈ p, b ≠ 0) :
    decodeView c (encodeDataFrame c k p v) =
      { recipient_id := 0, kind := kindOf k
        path := if p.length ≤ c.path_len - 1 then p else p.take (c.path_len - 1)
        value := valueOf (kindOf k) (valField k v) } := by
  rw [encodeDataFrame, decodeView_assembleFrame c 0 k _ _ (pathField_length c p hc) (valField_length k v),
    pathText_pathField c p hp]

theorem decodeView_encodeRequestFrame (c : Params) (t : Address) :
    decodeView c (encodeRequestFrame c t) = { recipient_id := t, kind := .requestOnly, path := [], value := none } := by
  have hpath : pathText (zeros c.path_len) = [] := pathText_append_zeros [] c.path_len (by simp)
  rw [encodeRequestFrame, decodeView_assembleFrame c t 1 _ _ (zeros_length _) (zeros_length _), hpath]
  rfl

end Sys2Proof.Machine

namespace Sys2Proof
open Machine

/-- Settles O28: the frame is `encodeDataFrame`, read field by field. -/
theorem encodeDataBuildsTheFrame : Obligations.EncodeDataBuildsTheFrame := by
  intro s x kind path val v hv hc
  refine ⟨fun hp hk => ⟨encodeDataFrame s.cfg kind path val, ?_, ?_, rfl, rfl, ?_, fun j hj => ?_, fun j hj => ?_⟩, fun h => ?_⟩
  · exact (execEncodeData_eq_next x kind path val s _).mpr
      ⟨⟨v, hv⟩, (noZeroByte_iff path).mpr hp, (isValueKind_iff kind).mpr hk, rfl⟩
  · exact encodeDataFrame_length s.cfg kind path val hc
  · exact encodeDataFrame_kindByte s.cfg kind path val
  · exact getD_encodeDataFrame_path s.cfg kind path val hc j hj
  · exact getD_encodeDataFrame_value s.cfg kind path val hc hk j hj
  · refine execEncodeData_refused x kind path val s v hv (h.imp (noZeroByte_eq_false_iff path).mpr fun hk => ?_)
    exact Bool.eq_false_iff.mpr (mt (isValueKind_iff kind).mp hk)

/-- Settles O29. -/
theorem encodeRequestBuildsTheFrame : Obligations.EncodeRequestBuildsTheFrame := by
  intro s x target v hv
  rw [← encodeRequestFrame_eq]
  exact (execEncodeRequest_eq_next x target s _).mpr ⟨v, hv, rfl⟩

/-- Settles O30: the view is `decodeView`, each field by the law of its reading. -/
theorem decodeReadsTheFields : Obligations.DecodeReadsTheFields := by
  intro s x f v hv hf
  have hlen := framePathField_length s.cfg f hf
  have hle : (pathText (framePathField s.cfg f)).length ≤ s.cfg.path_len := hlen ▸ pathText_length_le _
  refine ⟨decodeView s.cfg f, ?_, frameRecipient_toNat f, rfl, hle, fun j hj => ?_, fun hlt => ?_, fun hk => ?_,
    fun hk => ?_, fun hk => ?_⟩
  · exact (execDecodeFrame_eq_next x f s _).mpr ⟨v, hv, hf, rfl⟩
  · have hjp : j < s.cfg.path_len := Nat.lt_of_lt_of_le hj hle
    rw [← getElem?_framePathField s.cfg f j hjp, ← getD_framePathField s.cfg f j hjp]
    exact getElem?_pathText _ j hj
  · rw [← getD_framePathField s.cfg f _ hlt]
    exact getD_pathText_length _
  · refine ⟨_, valueOf_kindOf_float _ _ hk, ?_⟩
    rw [toNat_ofNat_leNat_take _ 4 32 (by decide), leNat_frameValueField s.cfg f 4 (by decide)]
  · refine ⟨_, valueOf_kindOf_64_bits _ _ hk, ?_⟩
    rw [toNat_ofNat_leNat_take _ 8 64 (by decide), leNat_frameValueField s.cfg f 8 (by decide)]
  · exact valueOf_kindOf_none _ _ hk

/-- Settles O31: `decodeView_encodeDataFrame` at the four value kinds; the bound on a `FLOAT` pattern is not needed, since the
view has the low 32 bits of any. -/
theorem codecRoundTrip : Obligations.CodecRoundTrip := by
  intro c hc
  refine ⟨fun path val hp => ⟨fun _ => ?_, fun code k hk => ?_⟩, decodeView_encodeRequestFrame c⟩
  · rw [decodeView_encodeDataFrame c 2 path val hc hp, valueOf_kindOf_float 2 _ rfl, value32_valField_float]
    rfl
  · have hcode : (code = 3 ∨ code = 4 ∨ code = 5) ∧ kindOf code = k := by
      simp only [List.mem_cons, Prod.mk.injEq, List.not_mem_nil, or_false] at hk
      rcases hk with ⟨rfl, rfl⟩ | ⟨rfl, rfl⟩ | ⟨rfl, rfl⟩ <;> decide
    obtain ⟨hcode, rfl⟩ := hcode
    rw [decodeView_encodeDataFrame c code path val hc hp, valueOf_kindOf_64_bits code _ hcode,
      value64_valField code val hcode]

/-- Settles O32. -/
theorem encodersStayInTheFormat : Obligations.EncodersStayInTheFormat := by
  rintro c hc f (⟨k, path, val, hk, -, rfl⟩ | ⟨t, rfl⟩)
  · have hrange : 1 ≤ k.toNat ∧ k.toNat ≤ 5 := by rcases hk with rfl | rfl | rfl | rfl <;> decide
    rw [encodeDataFrame_kindByte]
    exact ⟨encodeDataFrame_length c k path val hc, hrange.1, hrange.2, encodeDataFrame_path_ends c k path val hc⟩
  · rw [encodeRequestFrame_kindByte]
    exact ⟨encodeRequestFrame_length c t, by decide, by decide, encodeRequestFrame_path_ends c t hc⟩

end Sys2Proof
end

section
/-! PROOFS. The sampler: the three cases of an edge with guard and effect, which of them or of the rows of `NOEDGE` the edge context
fetches (rules R110, R151 to R155), and what a run of `SAMPLE` accumulates (rule R159). -/

namespace Sys2Proof.Machine

/-- The device as `SAMPLE(d)` leaves it (rule R152). -/
def Device.sampled (v : Device) (d : Bool) : Device :=
  { v with
    raw := v.raw.setBitAt v.bit_offset d
    bit_offset := v.bit_offset + 1
    idle_ticks := 0
    edge_pending := none }

@[simp] theorem Device.sampled_raw (v : Device) (d : Bool) : (v.sampled d).raw = v.raw.setBitAt v.bit_offset d := rfl
@[simp] theorem Device.sampled_bit_offset (v : Device) (d : Bool) : (v.sampled d).bit_offset = v.bit_offset + 1 := rfl

/-- The case of `EDGE(d)` that rule R151 selects, in its order. -/
def edgeCase (c : Params) (x : Nat) (v : Device) (d : Bool) : Instr :=
  if v.rx_enable = false then .edgeMasked x d else if v.bit_offset = c.N then .edgeOverrun x d else .sample x d

theorem edgeCase_of_masked (c : Params) (x : Nat) (v : Device) (d : Bool) (hrx : v.rx_enable = false) :
    edgeCase c x v d = .edgeMasked x d := if_pos hrx

theorem edgeCase_of_full (c : Params) (x : Nat) (v : Device) (d : Bool) (hrx : v.rx_enable = true)
    (hfull : v.bit_offset = c.N) : edgeCase c x v d = .edgeOverrun x d := by
  rw [edgeCase, if_neg (by simp [hrx]), if_pos hfull]

theorem edgeCase_of_room (c : Params) (x : Nat) (v : Device) (d : Bool) (hrx : v.rx_enable = true)
    (hroom : v.bit_offset ≠ c.N) : edgeCase c x v d = .sample x d := by
  rw [edgeCase, if_neg (by simp [hrx]), if_neg hroom]

/-! At a device that the link has, each row of `SAMP` has one guard and one next state. -/

section
variable {s : State} {x : Nat} {v : Device} (hv : s.devs[x]? = some v)
include hv

theorem exec_sample_iff (d : Bool) (t : State) :
    exec (.sample x d) s = .next t ↔
      (v.edge_pending = some d ∧ v.rx_enable = true ∧ v.bit_offset < s.cfg.N) ∧ t = s.setDev x (v.sampled d) :=
  (execSample_eq_next x d s t).trans (by simp [hv, Device.sampled])

theorem exec_edgeOverrun_iff (d : Bool) (t : State) :
    exec (.edgeOverrun x d) s = .next t ↔
      (v.edge_pending = some d ∧ v.rx_enable = true ∧ v.bit_offset = s.cfg.N) ∧
        t = (s.setDev x { v with idle_ticks := 0, edge_pending := none }).report (.drop x .overrunBit) :=
  (execEdgeOverrun_eq_next x d s t).trans (by simp [hv])

theorem exec_edgeMasked_iff (d : Bool) (t : State) :
    exec (.edgeMasked x d) s = .next t ↔
      (v.edge_pending = some d ∧ v.rx_enable = false) ∧ t = s.setDev x { v with edge_pending := none } :=
  (execEdgeMasked_eq_next x d s t).trans (by simp [hv])

theorem exec_noedgeLow : exec (.noedgeLow x) s = .next s := (execNoedgeLow_eq_next x s s).mpr ⟨v, hv, rfl⟩

theorem exec_noedgeFall : exec (.noedgeFall x) s = .next s := (execNoedgeFall_eq_next x s s).mpr ⟨v, hv, rfl⟩

theorem exec_noedgeHigh : exec (.noedgeHigh x) s = .next s := (execNoedgeHigh_eq_next x s s).mpr ⟨v, hv, rfl⟩

/-! The row the edge context fetches. -/

theorem fetchTurn_edgeTurn (r : Row) (i : Instr) (hr : findRow .samp (sampVector s v) = some r)
    (hi : readOperands s.cfg x (sampVector s v) [] r = .ok i) (hrun : isInternal i = false) :
    fetchTurn s (edgeTurn x) = .instr i := by
  have hvec := vectorOf_samp s x 0 v hv
  rw [edgeTurn, fetchTurn_op s .samp x 0 [] r i (by rw [hvec, hr]) (by rw [hvec, hi]), hrun, if_neg Bool.false_ne_true]

theorem fetchTurn_of_edge (d : Bool) (he : v.edge_pending = some d) :
    fetchTurn s (edgeTurn x) = .instr (edgeCase s.cfg x v d) := by
  have hvec : sampVector s v = vectorByte [false, true, d, v.rx_enable, complete s.cfg v] := by simp only [sampVector, he]
  obtain ⟨hrow, hlevel⟩ := findRow_samp false true d v.rx_enable (complete s.cfg v)
  rw [← hvec] at hrow hlevel
  cases hrx : v.rx_enable with
  | false =>
    rw [hrx] at hrow
    rw [edgeCase_of_masked s.cfg x v d hrx]
    exact fetchTurn_edgeTurn hv .edgeMasked _ hrow (by rw [readOperands, hlevel]) rfl
  | true =>
    by_cases hfull : v.bit_offset = s.cfg.N
    · rw [hrx, complete, beq_iff_eq.mpr hfull] at hrow
      rw [edgeCase_of_full s.cfg x v d hrx hfull]
      exact fetchTurn_edgeTurn hv .edgeOverrun _ hrow (by rw [readOperands, hlevel]) rfl
    · rw [hrx, complete, beq_false_of_ne hfull] at hrow
      rw [edgeCase_of_room s.cfg x v d hrx hfull]
      exact fetchTurn_edgeTurn hv .sample _ hrow (by rw [readOperands, hlevel]) rfl

theorem fetchTurn_of_no_edge (he : v.edge_pending = none) :
    fetchTurn s (edgeTurn x) = .instr (if s.line_strobe = true then .noedgeHigh x
      else if s.strobe_prev = true then .noedgeFall x else .noedgeLow x) := by
  have hrow : findRow .samp (sampVector s v) =
      some (sampRowOf (s.line_strobe || s.strobe_prev) s.line_strobe v.rx_enable (complete s.cfg v)) := by
    simp only [sampVector, he]
    exact (findRow_samp _ _ _ _ _).1
  cases hnow : s.line_strobe with
  | true =>
    rw [hnow] at hrow
    exact fetchTurn_edgeTurn hv .noedgeHigh _ hrow rfl rfl
  | false =>
    cases hprev : s.strobe_prev with
    | true =>
      rw [hnow, hprev] at hrow
      exact fetchTurn_edgeTurn hv .noedgeFall _ hrow rfl rfl
    | false =>
      rw [hnow, hprev] at hrow
      exact fetchTurn_edgeTurn hv .noedgeLow _ hrow rfl rfl

/-- The selected case answers, and takes the edge. -/
theorem exec_edgeCase_takes_edge (d : Bool) (he : v.edge_pending = some d) (hle : v.bit_offset ≤ s.cfg.N) :
    ∃ t w, exec (edgeCase s.cfg x v d) s = .next t ∧ t.devs[x]? = some w ∧ w.edge_pending = none := by
  cases hrx : v.rx_enable with
  | false =>
    rw [edgeCase_of_masked s.cfg x v d hrx]
    exact ⟨_, _, (exec_edgeMasked_iff hv d _).mpr ⟨⟨he, hrx⟩, rfl⟩, setDev_getElem?_self s x v _ hv, rfl⟩
  | true =>
    by_cases hfull : v.bit_offset = s.cfg.N
    · rw [edgeCase_of_full s.cfg x v d hrx hfull]
      exact ⟨_, _, (exec_edgeOverrun_iff hv d _).mpr ⟨⟨he, hrx, hfull⟩, rfl⟩, setDev_getElem?_self s x v _ hv, rfl⟩
    · rw [edgeCase_of_room s.cfg x v d hrx hfull]
      exact ⟨_, _, (exec_sample_iff hv d _).mpr ⟨⟨he, hrx, by omega⟩, rfl⟩, setDev_getElem?_self s x v _ hv, rfl⟩

end

/-! One sampled bit, read by bytes, and the receive state after it. -/

/-- `BitWrite` replaces one bit of the addressed byte (rules R18, R77). -/
theorem Memory.getLsbD_read_setBitAt (m : Memory) (o : Nat) (d : Bool) (k : Nat) (h : m.wf = true) (hk : k < 8) :
    ((m.setBitAt o d).read (byteOf o)).getLsbD k = if k = bitOf o then d else (m.read (byteOf o)).getLsbD k := by
  rw [Memory.setBitAt, Memory.read_write _ _ _ _ h, if_pos rfl, getLsbD_setBit _ _ _ _ (bitOf_lt o) hk]

/-- `BitWrite` leaves every other byte (rules R18, R77). -/
theorem Memory.read_setBitAt_ne (m : Memory) (o : Nat) (d : Bool) (a : Nat) (h : m.wf = true) (ha : a ≠ byteOf o) :
    (m.setBitAt o d).read a = m.read a := by
  rw [Memory.setBitAt, Memory.read_write _ _ _ _ h, if_neg ha]

/-- Past the first bit a receiver is `COMPLETE` at `N` and `SAMPLING` below it (rule R42). -/
theorem rxState_succ (c : Params) (v : Device) (o : Nat) (ho : o < c.N) :
    rxState c { v with bit_offset := o + 1 } = if o + 1 = c.N then .complete else .sampling := by
  have hpos : o + 1 ≠ 0 := by omega
  by_cases hfull : o + 1 = c.N
  · rw [rxState, if_neg hpos, if_neg (by simp [hfull]), if_pos hfull]
  · rw [rxState, if_neg hpos, if_pos (by show o + 1 < c.N; omega), if_neg hfull]

/-! A run of `SAMPLE`: the device after it, and the bits that it stored (rule R159). -/

theorem setDev_setDev (s : State) (x : Nat) (v w : Device) : (s.setDev x v).setDev x w = s.setDev x w := by
  simp [State.setDev]

/-- The whole run changes its device only, into the device that has sampled the bits one by one. -/
theorem sampleBits_eq_foldl_sampled (x : Nat) (ds : List Bool) (s : State) (v : Device) (hv : s.devs[x]? = some v)
    (hrx : v.rx_enable = true) (hroom : v.bit_offset + ds.length ≤ s.cfg.N) :
    sampleBits x ds s = .next (s.setDev x (ds.foldl Device.sampled v)) := by
  induction ds generalizing s v with
  | nil => rw [sampleBits, List.foldl_nil, setDev_self s x v hv]
  | cons d ds ih =>
    rw [List.length_cons] at hroom
    have hedge := setDev_getElem?_self s x v { v with edge_pending := some d } hv
    have hsample : exec (.sample x d) (s.setDev x { v with edge_pending := some d }) = .next (s.setDev x (v.sampled d)) :=
      (exec_sample_iff hedge d _).mpr ⟨⟨rfl, hrx, by show v.bit_offset < s.cfg.N; omega⟩, (setDev_setDev s x _ _).symm⟩
    have hrest := ih (s.setDev x (v.sampled d)) (v.sampled d) (setDev_getElem?_self s x v _ hv) hrx
      (by show v.bit_offset + 1 + ds.length ≤ s.cfg.N; omega)
    rw [sampleBits, onDev_some s x _ v hv, hsample]
    exact hrest.trans (by rw [setDev_setDev, List.foldl_cons])

theorem foldl_sampled_bit_offset (ds : List Bool) (v : Device) :
    (ds.foldl Device.sampled v).bit_offset = v.bit_offset + ds.length := by
  induction ds generalizing v with
  | nil => rfl
  | cons d ds ih => rw [List.foldl_cons, ih, Device.sampled_bit_offset, List.length_cons]; omega

/-- The sampled bits follow each other from `bit_offset` on; every other bit is as before. -/
theorem foldl_sampled_bit (ds : List Bool) (v : Device) (h : v.raw.wf = true) (o : Nat) :
    (ds.foldl Device.sampled v).raw.bit o =
      if o < v.bit_offset then v.raw.bit o else ds.getD (o - v.bit_offset) (v.raw.bit o) := by
  induction ds generalizing v with
  | nil => simp
  | cons d ds ih =>
    rw [List.foldl_cons, ih (v.sampled d) (Memory.wf_setBitAt _ _ _ h), Device.sampled_raw, Device.sampled_bit_offset,
      Memory.bit_setBitAt _ _ _ _ h]
    rcases Nat.lt_trichotomy o v.bit_offset with hlt | rfl | hgt
    · rw [if_pos (by omega), if_neg (by omega), if_pos hlt]
    · simp
    · rw [if_neg (by omega), if_neg (by omega), if_neg (by omega),
        show o - v.bit_offset = o - (v.bit_offset + 1) + 1 by omega, List.getD_cons_succ]

/-! Bytes and their bits. -/

theorem Memory.bit_add (m : Memory) (a j : Nat) (hj : j < 8) : m.bit (8 * a + j) = (m.read a).getLsbD j := by
  rw [Memory.bit, byteOf, bitOf, show (8 * a + j) / 8 = a by omega, show (8 * a + j) % 8 = j by omega]

/-- The lowest `n` bits of a number, each times its weight. -/
theorem sum_testBit_mul_two_pow (x n : Nat) :
    ((List.range n).map (fun j => (x.testBit j).toNat * 2 ^ j)).sum = x % 2 ^ n := by
  induction n with
  | zero => rw [List.range_zero, List.map_nil, List.sum_nil, Nat.pow_zero, Nat.mod_one]
  | succ n ih => rw [List.range_succ, List.map_append, List.sum_append, ih, List.map_singleton, List.sum_singleton, Nat.mod_pow_succ,
      Nat.toNat_testBit, Nat.mul_comm (2 ^ n)]

/-- A byte of a buffer is the sum of its bits' weights (rule R70). -/
theorem Memory.toNat_read (m : Memory) (a : Nat) :
    (m.read a).toNat = ((List.range 8).map (fun j => (m.bit (8 * a + j)).toNat * 2 ^ j)).sum := by
  have hbits : ∀ j ∈ List.range 8, (m.bit (8 * a + j)).toNat * 2 ^ j = ((m.read a).toNat.testBit j).toNat * 2 ^ j := by
    intro j hj
    rw [m.bit_add a j (List.mem_range.mp hj), BitVec.getLsbD]
  rw [List.map_congr_left hbits, sum_testBit_mul_two_pow, Nat.mod_eq_of_lt (m.read a).isLt]

theorem Memory.read_eq_of_bit_eq (m m' : Memory) (a : Nat) (h : ∀ j, j < 8 → m.bit (8 * a + j) = m'.bit (8 * a + j)) :
    m.read a = m'.read a := by
  refine BitVec.eq_of_getLsbD_eq fun j hj => ?_
  rw [← m.bit_add a j hj, ← m'.bit_add a j hj, h j hj]

/-- A buffer that holds the bits of a frame holds the frame. -/
theorem Memory.bytes_eq_of_bit_eq (m : Memory) (f : Frame) (h : ∀ o, o < 8 * f.length → m.bit o = frameBit f o) :
    m.bytes f.length = f := by
  refine List.ext_getElem? fun a => ?_
  rw [Memory.getElem?_bytes]
  by_cases ha : a < f.length
  · have hread : m.read a = (Memory.ofBytes f).read a := by
      refine Memory.read_eq_of_bit_eq _ _ a fun j hj => ?_
      rw [Memory.bit_ofBytes, h (8 * a + j) (by omega)]
    rw [if_pos ha, hread, Memory.read_ofBytes, List.getD_eq_getElem?_getD, List.getElem?_eq_getElem ha, Option.getD_some]
  · rw [if_neg ha, List.getElem?_eq_none (by omega)]

end Sys2Proof.Machine

namespace Sys2Proof
open Machine

/-- Settles O1: the new buffer is `setBitAt` of the old one. -/
theorem sampleStoresOneBit : Obligations.SampleStoresOneBit := by
  intro s x d v hv hwf
  refine ⟨fun t ht => ((exec_sample_iff hv d t).mp ht).1, fun he hrx ho => ?_⟩
  refine ⟨v.raw.setBitAt v.bit_offset d, (exec_sample_iff hv d _).mpr ⟨⟨he, hrx, ho⟩, rfl⟩,
    Memory.wf_setBitAt _ _ _ hwf, fun k hk => ?_, fun a ha => ?_, rxState_succ s.cfg v v.bit_offset ho⟩
  · exact Memory.getLsbD_read_setBitAt v.raw v.bit_offset d k hwf hk
  · exact Memory.read_setBitAt_ne v.raw v.bit_offset d a hwf ha

/-- Settles O2. -/
theorem edgeOverrunIgnoresTheBit : Obligations.EdgeOverrunIgnoresTheBit := fun _ _ d _ hv =>
  ⟨fun t ht => ((exec_edgeOverrun_iff hv d t).mp ht).1,
    fun he hrx hfull => (exec_edgeOverrun_iff hv d _).mpr ⟨⟨he, hrx, hfull⟩, rfl⟩⟩

/-- Settles O3. -/
theorem edgeMaskedDiscardsTheEdge : Obligations.EdgeMaskedDiscardsTheEdge := fun _ _ d _ hv =>
  ⟨fun t ht => ((exec_edgeMasked_iff hv d t).mp ht).1,
    fun he hrx => (exec_edgeMasked_iff hv d _).mpr ⟨⟨he, hrx⟩, rfl⟩⟩

/-- Settles O4. -/
theorem noedgeChangesNothing : Obligations.NoedgeChangesNothing := fun _ _ _ hv =>
  ⟨exec_noedgeLow hv, exec_noedgeFall hv, exec_noedgeHigh hv⟩

/-- Settles O5: the bits of the vector are the conditions of the cases; each case answers because the bits are its guard. -/
theorem edgeContextSelectsItsCase : Obligations.EdgeContextSelectsItsCase := by
  intro s x v hv hle
  refine ⟨fun d he => ?_, fun d i t hi ht => ?_, fun he => ?_⟩
  · obtain ⟨t, w, ht, hw, hnone⟩ := exec_edgeCase_takes_edge hv d he hle
    exact ⟨_, t, w, fetchTurn_of_edge hv d he, rfl, ht, hw, hnone⟩
  · rcases hi with rfl | rfl | rfl
    · exact ((exec_sample_iff hv d t).mp ht).1.1
    · exact ((exec_edgeOverrun_iff hv d t).mp ht).1.1
    · exact ((exec_edgeMasked_iff hv d t).mp ht).1.1
  · refine ⟨_, fetchTurn_of_no_edge hv he, rfl, ?_⟩
    split
    · exact exec_noedgeHigh hv
    · split
      · exact exec_noedgeFall hv
      · exact exec_noedgeLow hv

/-- Settles O6: every bit of the buffer by `foldl_sampled_bit`; the clauses about bytes and frames speak of its bits. -/
theorem sampledBitsAccumulate : Obligations.SampledBitsAccumulate := by
  intro s x v ds hv hoff hrx hwf hzero hlen
  have hbit : ∀ o, (ds.foldl Device.sampled v).raw.bit o = ds.getD o false := by
    intro o
    have hempty : v.raw.bit o = false := by rw [Memory.bit, hzero]; exact BitVec.getLsbD_zero
    rw [foldl_sampled_bit ds v hwf, hoff, hempty, if_neg (Nat.not_lt_zero o), Nat.sub_zero]
  refine ⟨_, _, sampleBits_eq_foldl_sampled x ds s v hv hrx (by omega), setDev_getElem?_self s x v _ hv, ?_, hbit,
    fun a _ => ?_, fun f hf hds => ?_⟩
  · rw [foldl_sampled_bit_offset, hoff, Nat.zero_add]
  · simp only [Memory.toNat_read, hbit]
  · rw [← hf]
    refine Memory.bytes_eq_of_bit_eq _ f fun o ho => ?_
    have hlt : o < s.cfg.N := by rw [Params.N, ← hf]; exact ho
    rw [hbit, hds, List.getD_eq_getElem?_getD, List.getElem?_map, List.getElem?_range hlt, Option.map_some, Option.getD_some]

end Sys2Proof
end

section
/-! PROOFS. The reassembler: the address filter by the two fields it reads, the five rows of `RVEC` with guard and effect, and
the row that the background context fetches (rules R111, R171 to R176). -/

namespace Sys2Proof.Machine

/-! The address filter: a request is accepted by its recipient, any other frame by the coordinator (rule R173). -/

theorem frameAccepted_of_request (id : Address) (f : Frame) (hk : f.getD 2 0 = 1) :
    frameAccepted id f = decide ((f.getD 0 0).toNat + 256 * (f.getD 1 0).toNat = id.toNat) := by
  have hkind : ((1 : Byte) == 1) = true ∧ ((1 : Byte) != 1) = false := by decide
  rw [← frameRecipient_toNat, frameAccepted, frameKindByte, hk, hkind.1, hkind.2, Bool.and_true, Bool.and_false, Bool.or_false,
    Bool.beq_eq_decide_eq]
  exact decide_eq_decide.mpr BitVec.toNat_inj.symm

theorem frameAccepted_of_not_request (id : Address) (f : Frame) (hk : f.getD 2 0 ≠ 1) :
    frameAccepted id f = decide (id = 0) := by
  rw [frameAccepted, frameKindByte, beq_false_of_ne hk, bne_iff_ne.mpr hk, Bool.and_false, Bool.false_or, Bool.and_true,
    Bool.beq_eq_decide_eq]

theorem rawRecipient_toNat (v : Device) :
    (rawRecipient v).toNat = (v.raw.read 0).toNat + 256 * (v.raw.read 1).toNat :=
  frameRecipient_toNat [v.raw.read 0, v.raw.read 1]

theorem selfRequest_iff (v : Device) :
    selfRequest v = true ↔
      (v.raw.read 0).toNat + 256 * (v.raw.read 1).toNat = v.own_id.toNat ∧ v.raw.read 2 = 1 := by
  rw [← rawRecipient_toNat, BitVec.toNat_inj, selfRequest, Bool.and_eq_true, beq_iff_eq, beq_iff_eq]

theorem coordinatorFrame_iff (v : Device) : coordinatorFrame v = true ↔ v.own_id = 0 ∧ v.raw.read 2 ≠ 1 := by
  rw [coordinatorFrame, Bool.and_eq_true, beq_iff_eq, bne_iff_ne]

theorem accepts_iff (v : Device) : accepts v = true ↔ selfRequest v = true ∨ coordinatorFrame v = true := by
  rw [accepts, Bool.or_eq_true]

/-- The two clauses of the filter exclude each other: the kind byte decides which one applies. -/
theorem not_selfRequest_and_coordinatorFrame (v : Device) :
    (!selfRequest v && coordinatorFrame v) = coordinatorFrame v := by
  cases hg : coordinatorFrame v with
  | false => rw [Bool.and_false]
  | true =>
    have hs : ¬selfRequest v = true := fun hs => ((coordinatorFrame_iff v).mp hg).2 ((selfRequest_iff v).mp hs).2
    rw [Bool.eq_false_iff.mpr hs]
    rfl

/-! The derived conditions of the receiver (rule R42). -/

theorem complete_iff (c : Params) (v : Device) : complete c v = true ↔ v.bit_offset = c.N := beq_iff_eq

theorem midFrame_and_quiet_iff (c : Params) (v : Device) :
    (midFrame c v && quiet v) = true ↔
      0 < v.bit_offset ∧ v.bit_offset < c.N ∧ v.params.t_abandon ≤ v.idle_ticks := by
  rw [midFrame, quiet, Bool.and_eq_true, Bool.and_eq_true, decide_eq_true_iff, decide_eq_true_iff, decide_eq_true_iff, and_assoc]

theorem nothing_due_iff (c : Params) (v : Device) :
    (!complete c v && !(midFrame c v && quiet v)) = true ↔
      v.bit_offset ≠ c.N ∧ ¬(0 < v.bit_offset ∧ v.bit_offset < c.N ∧ v.params.t_abandon ≤ v.idle_ticks) := by
  rw [Bool.and_eq_true, Bool.not_eq_true', Bool.not_eq_true', Bool.eq_false_iff, Bool.eq_false_iff, ne_eq, complete_iff, ne_eq,
    midFrame_and_quiet_iff]

/-! What `REASM_ACCEPT` does once its guard holds (rule R174). -/

theorem acceptFrame_of_room (s : State) (x : Nat) (v : Device) (hq : queueHasRoom v = true) :
    acceptFrame s x v = s.setDev x ((v.pushFrame (v.raw.bytes s.cfg.NB)).clearRx.reasmDone) := by
  rw [acceptFrame_eq, if_pos hq]

theorem acceptFrame_of_full (s : State) (x : Nat) (v : Device) (hq : queueHasRoom v = false) :
    acceptFrame s x v = (s.setDev x { v.clearRx.reasmDone with q_overflow := true }).report (.drop x .queueFull) := by
  rw [acceptFrame_eq, if_neg (Bool.eq_false_iff.mp hq)]

theorem queueHasRoom_eq_false_of_full (v : Device) (n : Nat) (hn : v.params.queue_depth = some n)
    (hfull : n ≤ v.queue.length) : queueHasRoom v = false :=
  Bool.eq_false_iff.mpr fun hq => Nat.not_lt.mpr hfull ((queueHasRoom_iff v).mp hq n hn)

/-- The case of `REASM` that rule R171 selects. -/
def reasmCase (c : Params) (x : Nat) (v : Device) : Instr :=
  if complete c v then
    if selfRequest v then .reasmAcceptSelf x else if coordinatorFrame v then .reasmAcceptCoord x else .reasmReject x
  else if midFrame c v && quiet v then .reasmAbandon x else .reasmNop x

/-- The row that the bits of the vector select reads as the selected case, which an agent performs by itself (rule R111). -/
theorem readOperands_reasmCase (c : Params) (x : Nat) (v : Device) (w : Byte) :
    readOperands c x w [] (rvecRowOf (complete c v) (complete c v && selfRequest v) (complete c v && coordinatorFrame v)
        (midFrame c v && quiet v)) = .ok (reasmCase c x v) ∧
      isInternal (reasmCase c x v) = false := by
  unfold rvecRowOf reasmCase
  cases complete c v with
  | false => cases midFrame c v && quiet v <;> exact ⟨rfl, rfl⟩
  | true => cases selfRequest v <;> cases coordinatorFrame v <;> exact ⟨rfl, rfl⟩

/-! At a device that the link has, each row of `RVEC` has one guard and one next state. -/

section
variable {s : State} {x : Nat} {v : Device} (hv : s.devs[x]? = some v)
include hv

theorem exec_reasmAcceptSelf_iff (t : State) :
    exec (.reasmAcceptSelf x) s = .next t ↔
      (v.bit_offset = s.cfg.N ∧ selfRequest v = true) ∧ t = acceptFrame s x v :=
  (execReasmAcceptSelf_eq_next x s t).trans (by
    simp only [Bool.and_eq_true, complete_iff, hv, Option.some.injEq, exists_eq_left'])

theorem exec_reasmAcceptCoord_iff (t : State) :
    exec (.reasmAcceptCoord x) s = .next t ↔
      (v.bit_offset = s.cfg.N ∧ coordinatorFrame v = true) ∧ t = acceptFrame s x v := by
  rw [← not_selfRequest_and_coordinatorFrame, ← complete_iff, ← Bool.and_eq_true]
  exact (execReasmAcceptCoord_eq_next x s t).trans (by simp only [hv, Option.some.injEq, exists_eq_left'])

theorem exec_reasmReject_iff (t : State) :
    exec (.reasmReject x) s = .next t ↔
      (v.bit_offset = s.cfg.N ∧ accepts v = false) ∧
        t = (s.setDev x v.clearRx.reasmDone).report (.drop x .filterReject) :=
  (execReasmReject_eq_next x s t).trans (by
    simp only [Bool.and_eq_true, Bool.not_eq_true', complete_iff, hv, Option.some.injEq, exists_eq_left'])

theorem exec_reasmAbandon_iff (t : State) :
    exec (.reasmAbandon x) s = .next t ↔
      (0 < v.bit_offset ∧ v.bit_offset < s.cfg.N ∧ v.params.t_abandon ≤ v.idle_ticks) ∧
        t = (s.setDev x v.clearRx.reasmDone).report (.drop x .abandonTimeout) :=
  (execReasmAbandon_eq_next x s t).trans (by simp only [midFrame_and_quiet_iff, hv, Option.some.injEq, exists_eq_left'])

theorem exec_reasmNop_iff (t : State) :
    exec (.reasmNop x) s = .next t ↔
      (v.bit_offset ≠ s.cfg.N ∧
          ¬(0 < v.bit_offset ∧ v.bit_offset < s.cfg.N ∧ v.params.t_abandon ≤ v.idle_ticks)) ∧
        t = s.setDev x v.reasmDone :=
  (execReasmNop_eq_next x s t).trans (by simp only [nothing_due_iff, hv, Option.some.injEq, exists_eq_left'])

/-! The row the background context fetches. -/

theorem fetchTurn_reasmTurn : fetchTurn s (reasmTurn x) = .instr (reasmCase s.cfg x v) := by
  have hvec := vectorOf_rvec s x 0 v hv
  have hrow : findRow .rvec (rvecVector s v) = some (rvecRowOf (complete s.cfg v) (complete s.cfg v && selfRequest v)
      (complete s.cfg v && coordinatorFrame v) (midFrame s.cfg v && quiet v)) := findRow_rvec _ _ _ _
  obtain ⟨hread, hrun⟩ := readOperands_reasmCase s.cfg x v (rvecVector s v)
  rw [reasmTurn, fetchTurn_op s .rvec x 0 [] _ _ (by rw [hvec, hrow]) (by rw [hvec, hread]), hrun,
    if_neg Bool.false_ne_true]

theorem acceptFrame_restarts_timer :
    ∃ w, (acceptFrame s x v).devs[x]? = some w ∧ w.reasm_wait = 0 := by
  cases hq : queueHasRoom v with
  | true => rw [acceptFrame_of_room s x v hq]; exact ⟨_, setDev_getElem?_self s x v _ hv, rfl⟩
  | false => rw [acceptFrame_of_full s x v hq]; exact ⟨_, setDev_getElem?_self s x v _ hv, rfl⟩

/-- The selected case answers, and restarts the timer (rule R171). -/
theorem exec_reasmCase_restarts_timer :
    ∃ t w, exec (reasmCase s.cfg x v) s = .next t ∧ t.devs[x]? = some w ∧ w.reasm_wait = 0 := by
  unfold reasmCase
  split
  · next hc =>
    have hfull := (complete_iff s.cfg v).mp hc
    obtain ⟨w, hw, hzero⟩ := acceptFrame_restarts_timer hv
    split
    · next hself => exact ⟨_, w, (exec_reasmAcceptSelf_iff hv _).mpr ⟨⟨hfull, hself⟩, rfl⟩, hw, hzero⟩
    · next hself =>
      split
      · next hcoord => exact ⟨_, w, (exec_reasmAcceptCoord_iff hv _).mpr ⟨⟨hfull, hcoord⟩, rfl⟩, hw, hzero⟩
      · next hcoord =>
        have hrefused : accepts v = false := Bool.eq_false_iff.mpr (mt (accepts_iff v).mp (not_or.mpr ⟨hself, hcoord⟩))
        exact ⟨_, _, (exec_reasmReject_iff hv _).mpr ⟨⟨hfull, hrefused⟩, rfl⟩, setDev_getElem?_self s x v _ hv, rfl⟩
  · next hc =>
    have hpart := mt (complete_iff s.cfg v).mpr hc
    split
    · next hq =>
      exact ⟨_, _, (exec_reasmAbandon_iff hv _).mpr ⟨(midFrame_and_quiet_iff s.cfg v).mp hq, rfl⟩,
        setDev_getElem?_self s x v _ hv, rfl⟩
    · next hq =>
      exact ⟨_, _, (exec_reasmNop_iff hv _).mpr ⟨⟨hpart, mt (midFrame_and_quiet_iff s.cfg v).mpr hq⟩, rfl⟩,
        setDev_getElem?_self s x v _ hv, rfl⟩

end

theorem reasmCase_of_accepted (c : Params) (x : Nat) (v : Device) (hc : v.bit_offset = c.N) (ha : accepts v = true) :
    reasmCase c x v = .reasmAcceptSelf x ∨ reasmCase c x v = .reasmAcceptCoord x := by
  rw [reasmCase, if_pos ((complete_iff c v).mpr hc)]
  by_cases hs : selfRequest v = true
  · exact .inl (if_pos hs)
  · exact .inr (by rw [if_neg hs, if_pos (((accepts_iff v).mp ha).resolve_left hs)])

theorem reasmCase_of_refused (c : Params) (x : Nat) (v : Device) (hc : v.bit_offset = c.N) (ha : ¬accepts v = true) :
    reasmCase c x v = .reasmReject x := by
  obtain ⟨hs, hg⟩ := not_or.mp (mt (accepts_iff v).mpr ha)
  rw [reasmCase, if_pos ((complete_iff c v).mpr hc), if_neg hs, if_neg hg]

theorem reasmCase_of_overdue (c : Params) (x : Nat) (v : Device) (hc : v.bit_offset ≠ c.N)
    (hq : 0 < v.bit_offset ∧ v.bit_offset < c.N ∧ v.params.t_abandon ≤ v.idle_ticks) :
    reasmCase c x v = .reasmAbandon x := by
  rw [reasmCase, if_neg (mt (complete_iff c v).mp hc), if_pos ((midFrame_and_quiet_iff c v).mpr hq)]

theorem reasmCase_of_nothing_due (c : Params) (x : Nat) (v : Device) (hc : v.bit_offset ≠ c.N)
    (hq : ¬(0 < v.bit_offset ∧ v.bit_offset < c.N ∧ v.params.t_abandon ≤ v.idle_ticks)) :
    reasmCase c x v = .reasmNop x := by
  rw [reasmCase, if_neg (mt (complete_iff c v).mp hc), if_neg (mt (midFrame_and_quiet_iff c v).mp hq)]

end Sys2Proof.Machine

namespace Sys2Proof
open Machine

/-- Settles O7: the kind byte of the row says which law of the filter applies. -/
theorem addressFilter : Obligations.AddressFilter := by
  refine ⟨fun id f => ⟨fun hid hk => ?_, fun hid hk hr => ?_, fun hid hk hr => ?_, fun _ hk hr => ?_, fun _ hk hr => ?_,
    fun hid hk => ?_⟩, fun c v => (frameAccepted_raw c v).symm⟩
  · rw [frameAccepted_of_not_request id f hk, decide_eq_true hid]
  · rw [frameAccepted_of_request id f hk, hid]
    exact decide_eq_true hr
  · rw [frameAccepted_of_request id f hk, hid]
    exact decide_eq_false hr
  · rw [frameAccepted_of_request id f hk, decide_eq_true hr]
  · rw [frameAccepted_of_request id f hk, decide_eq_false hr]
  · rw [frameAccepted_of_not_request id f hk, decide_eq_false hid]

/-- Settles O8: each row's clause of the filter leads to `acceptFrame`, which the room in the queue decides. -/
theorem reasmAcceptQueuesTheFrame : Obligations.ReasmAcceptQueuesTheFrame := by
  intro s x v hv
  refine ⟨fun t ht => ?_, fun i hi hfull => ?_⟩
  · rw [frameAccepted_raw, accepts_iff]
    rcases ht with ht | ht
    · obtain ⟨⟨hfull, hself⟩, -⟩ := (exec_reasmAcceptSelf_iff hv t).mp ht
      exact ⟨hfull, .inl hself⟩
    · obtain ⟨⟨hfull, hcoord⟩, -⟩ := (exec_reasmAcceptCoord_iff hv t).mp ht
      exact ⟨hfull, .inr hcoord⟩
  · have hexec : exec i s = .next (acceptFrame s x v) := by
      rcases hi with ⟨rfl, hself⟩ | ⟨rfl, hcoord⟩
      · exact (exec_reasmAcceptSelf_iff hv _).mpr ⟨⟨hfull, (selfRequest_iff v).mpr hself⟩, rfl⟩
      · exact (exec_reasmAcceptCoord_iff hv _).mpr ⟨⟨hfull, (coordinatorFrame_iff v).mpr hcoord⟩, rfl⟩
    rw [hexec]
    refine ⟨fun hroom => ?_, fun n hn hle => ?_⟩
    · rw [acceptFrame_of_room s x v ((queueHasRoom_iff v).mpr hroom)]
      rfl
    · rw [acceptFrame_of_full s x v (queueHasRoom_eq_false_of_full v n hn hle)]
      rfl

/-- Settles O12: the fetched row is `reasmCase`, whose conditions are the guards of the rows. -/
theorem reasmSelectsItsCase : Obligations.ReasmSelectsItsCase := by
  intro s x v hv
  obtain ⟨t, w, ht, hw, hzero⟩ := exec_reasmCase_restarts_timer hv
  refine ⟨_, t, w, fetchTurn_reasmTurn hv, ?_, ht, hw, hzero⟩
  rw [frameAccepted_raw]
  split
  · next hfull =>
    split
    · next ha => exact reasmCase_of_accepted s.cfg x v hfull ha
    · next ha => exact reasmCase_of_refused s.cfg x v hfull ha
  · next hpart =>
    split
    · next hq => exact reasmCase_of_overdue s.cfg x v hpart hq
    · next hq => exact reasmCase_of_nothing_due s.cfg x v hpart hq

/-- Settles O9. -/
theorem reasmRejectDiscardsTheFrame : Obligations.ReasmRejectDiscardsTheFrame := by
  intro s x v hv
  rw [frameAccepted_raw]
  exact ⟨fun t ht => ((exec_reasmReject_iff hv t).mp ht).1,
    fun hfull ha => (exec_reasmReject_iff hv _).mpr ⟨⟨hfull, ha⟩, rfl⟩⟩

/-- Settles O10. -/
theorem reasmAbandonDiscardsThePart : Obligations.ReasmAbandonDiscardsThePart := fun _ _ _ hv =>
  ⟨fun t ht => ((exec_reasmAbandon_iff hv t).mp ht).1,
    fun hpos hlt hquiet => (exec_reasmAbandon_iff hv _).mpr ⟨⟨hpos, hlt, hquiet⟩, rfl⟩⟩

/-- Settles O11. -/
theorem reasmNopOnlyRestartsItsTimer : Obligations.ReasmNopOnlyRestartsItsTimer := fun _ _ _ hv =>
  ⟨fun t ht => ((exec_reasmNop_iff hv t).mp ht).1,
    fun hpart hdue => (exec_reasmNop_iff hv _).mpr ⟨⟨hpart, hdue⟩, rfl⟩⟩

end Sys2Proof
end

section
/-! PROOFS. The transmitter: each of its operations with guard and effect at a link on which no other device drives the lines
(rules R192 to R198, R270, R271). -/

namespace Sys2Proof.Machine

/-- No device but `x` drives the lines (rule R273). -/
abbrev OthersListen (s : State) (x : Nat) : Prop := ∀ y w, y ≠ x → s.devs[y]? = some w → w.pin_dir = .input

/-- The device as `TX_RISE` leaves it, for a pulse of the given width (rule R194). -/
def Device.risen (v : Device) (pulse : Nat) : Device :=
  { v with strobe_out := true, tx_phase := .high, tx_wait := pulse }

@[simp] theorem Device.risen_tx_phase (v : Device) (pulse : Nat) : (v.risen pulse).tx_phase = .high := rfl

/-! The lines after one device was replaced. -/

/-- A low strobe delivers no edge (rule R270). -/
theorem driveLines_low (s : State) (data : Bool) :
    driveLines s false data = { s with strobe_prev := s.line_strobe, line_strobe := false, line_data := data } := by
  simp [driveLines]

/-- A strobe that was low and goes high gives every listening device an edge (rule R270). -/
theorem driveLines_rise (s : State) (data : Bool) (hl : s.line_strobe = false) :
    driveLines s true data =
      { s with
        devs := s.devs.map (deliverEdge data), strobe_prev := false, line_strobe := true, line_data := data } := by
  simp [driveLines, hl]

section
variable {s : State} {x : Nat} {v : Device} (hv : s.devs[x]? = some v)
include hv

/-- The only driver puts its levels on the lines (rule R270). -/
theorem resolveLink_setDev_of_output (w : Device) (hw : w.pin_dir = .output) (ho : OthersListen s x) :
    resolveLink (s.setDev x w) = .next (driveLines (s.setDev x w) w.strobe_out w.data_out) :=
  resolveLink_of_driver _ x w (setDev_getElem?_self s x v w hv) hw
    (by rw [otherDrives_setDev, otherDrives_eq_false]; exact ho)

/-- A link whose last driver lets go: the strobe reads 0, the data line a free value (rule R271). -/
theorem resolveLink_setDev_of_input (w : Device) (hw : w.pin_dir = .input) (ho : OthersListen s x) :
    resolveLink (s.setDev x w) =
      .next
        { s.setDev x w with
          free_count := s.free_count + 1, strobe_prev := s.line_strobe, line_strobe := false
          line_data := Config.undrivenData s.free_count } := by
  have hin : ∀ u ∈ (s.setDev x w).devs, u.pin_dir = .input := by
    intro u hu
    obtain ⟨y, hy⟩ := List.mem_iff_getElem?.mp hu
    rcases setDev_device s x y v w u hv hy with ⟨-, rfl⟩ | ⟨hne, hy⟩
    · exact hw
    · exact ho y u hne hy
  rw [resolveLink_of_no_driver _ hin, driveLines_low]
  rfl

/-! At a device that the link has, each row of `TXPH` has one guard and one way to go on. -/

theorem exec_txBegin_iff (f : Frame) (t : State) :
    exec (.txBegin x f) s = .next t ↔
      (f.length = s.cfg.NB ∧ builtByCodec s.cfg f = true) ∧
        (v.configured = true ∧ v.mode = .receiving ∧ v.tx_phase = .off ∧ OthersListen s x) ∧
          t = driveLines ((reportTxAbandon s x v).setDev x (v.enterTransmit f)) false false := by
  rw [OthersListen, ← otherDrives_eq_false]
  exact (execTxBegin_eq_next x f s t).trans
    (and_congr_right fun _ => by simp only [beginTransmit_eq_next, hv, Option.some.injEq, exists_eq_left', and_assoc])

theorem exec_txData_iff (t : State) :
    exec (.txData x) s = .next t ↔
      (v.tx_phase = .load ∧ v.tx_index < s.cfg.N) ∧
        resolveLink (s.setDev x
          { v with data_out := v.tx_buf.bit v.tx_index, tx_phase := .setup, tx_wait := s.cfg.t_bit_hold }) = .next t :=
  (execTxData_eq_next x s t).trans (by simp only [hv, Option.some.injEq, exists_eq_left', and_assoc])

theorem exec_txRise_iff (t : State) :
    exec (.txRise x) s = .next t ↔
      (v.tx_phase = .setup ∧ v.tx_wait = 0) ∧
        resolveLink (s.setDev x (v.risen s.cfg.t_pulse)) = .next t :=
  (execTxRise_eq_next x s t).trans (by simp only [hv, Option.some.injEq, exists_eq_left', Device.risen])

theorem exec_txFall_iff (t : State) :
    exec (.txFall x) s = .next t ↔
      (v.tx_phase = .high ∧ v.tx_wait = 0) ∧
        resolveLink (s.setDev x { v with strobe_out := false, tx_phase := .low, tx_wait := s.cfg.t_bit_hold }) =
          .next t :=
  (execTxFall_eq_next x s t).trans (by simp only [hv, Option.some.injEq, exists_eq_left'])

theorem exec_txNext_iff (t : State) :
    exec (.txNext x) s = .next t ↔
      (v.tx_phase = .low ∧ v.tx_wait = 0 ∧ v.tx_index < s.cfg.N - 1) ∧
        t = s.setDev x { v with tx_index := v.tx_index + 1, tx_phase := .load } :=
  (execTxNext_eq_next x s t).trans (by simp only [hv, Option.some.injEq, exists_eq_left'])

theorem exec_txFramehold_iff (t : State) :
    exec (.txFramehold x) s = .next t ↔
      (v.tx_phase = .low ∧ v.tx_wait = 0 ∧ v.tx_index = s.cfg.N - 1) ∧
        t = s.setDev x { v with tx_index := s.cfg.N, tx_phase := .framehold, tx_wait := s.cfg.t_frame_hold } :=
  (execTxFramehold_eq_next x s t).trans (by simp only [hv, Option.some.injEq, exists_eq_left'])

theorem exec_txEnd_iff (t : State) :
    exec (.txEnd x) s = .next t ↔
      (v.tx_phase = .framehold ∧ v.tx_wait = 0) ∧
        resolveLink ((s.report (.sendReturned x)).setDev x
          { v with pin_dir := .input, edge_pending := none, rx_enable := true, mode := .receiving, tx_phase := .off }) =
          .next t :=
  (execTxEnd_eq_next x s t).trans (by simp only [hv, Option.some.injEq, exists_eq_left'])

end

/-! The frames of `TX_BEGIN` and the state after it. -/

/-- The frames that an encoder builds, with the domain of `ENCODE_DATA` written out (rules R134, R135, R192). -/
theorem builtByCodec_iff_encoded (c : Params) (f : Frame) (hc : 1 ≤ c.path_len) :
    builtByCodec c f = true ↔ (∃ target, f = encodeRequestFrame c target) ∨
      ∃ (kind : Byte) (path : List Byte) (val : BitVec 64), (kind = 2 ∨ kind = 3 ∨ kind = 4 ∨ kind = 5) ∧
        (∀ b ∈ path, b ≠ 0) ∧ f = encodeDataFrame c kind path val := by
  simp only [builtByCodec_iff c f hc, isValueKind_iff, noZeroByte_iff]

/-- Rule R139 at the frames of `TX_BEGIN`. -/
theorem length_of_builtByCodec (c : Params) (f : Frame) (hc : 1 ≤ c.path_len) (h : builtByCodec c f = true) :
    f.length = c.NB := by
  rcases (builtByCodec_iff c f hc).mp h with ⟨target, rfl⟩ | ⟨kind, path, val, -, -, rfl⟩
  · exact encodeRequestFrame_length c target
  · exact encodeDataFrame_length c kind path val hc

/-- `TX_BEGIN` changes its device, the lines, and the reports where something was being received (rule R192). -/
theorem begun_state_eq (s : State) (x : Nat) (v w : Device) :
    driveLines ((reportTxAbandon s x v).setDev x w) false false =
      { s with
        devs := s.devs.set x w
        reports := if v.bit_offset = 0 then s.reports else .drop x .txAbandon :: s.reports
        strobe_prev := s.line_strobe, line_strobe := false, line_data := false } := by
  rw [driveLines_low, reportTxAbandon]
  split <;> rfl

/-- A device that has begun to transmit (rule R192). -/
theorem device_of_beginTransmit (s t : State) (x : Nat) (f : Frame) (w : Device) (h : beginTransmit s x f = .next t)
    (hw : t.devs[x]? = some w) : ∃ v : Device, w = v.enterTransmit f := by
  obtain ⟨v, hv, -, -, -, -, rfl⟩ := (beginTransmit_eq_next s t x f).mp h
  rw [begun_state_eq] at hw
  cases (setDev_getElem?_self s x v (v.enterTransmit f) hv).symm.trans hw
  exact ⟨v, rfl⟩

/-- The link after a rise: the sender gets no edge, every other device gets one (rule R270). -/
theorem getElem?_map_deliverEdge (s : State) (x : Nat) (v w : Device) (d : Bool) (hv : s.devs[x]? = some v)
    (hw : w.pin_dir = .output) (ho : OthersListen s x) :
    ((s.devs.set x w).map (deliverEdge d))[x]? = some w ∧
      ∀ y u, y ≠ x → s.devs[y]? = some u →
        ((s.devs.set x w).map (deliverEdge d))[y]? = some { u with edge_pending := some d } := by
  have hx : (s.devs.set x w)[x]? = some w := setDev_getElem?_self s x v w hv
  refine ⟨?_, fun y u hy hu => ?_⟩
  · rw [List.getElem?_map, hx, Option.map_some, deliverEdge, if_neg (by simp [hw])]
  · have hyu : (s.devs.set x w)[y]? = some u := (setDev_getElem?_ne s x y w hy).trans hu
    rw [List.getElem?_map, hyu, Option.map_some, deliverEdge, if_pos (ho y u hy hu)]

end Sys2Proof.Machine

namespace Sys2Proof
open Machine

/-- Settles O13: the guard and the state after it are those of `beginTransmit`; the frames are those of `builtByCodec`. -/
theorem txBeginEntersTransmission : Obligations.TxBeginEntersTransmission := by
  intro s x f v hv hc
  rw [← builtByCodec_iff_encoded s.cfg f hc]
  refine ⟨fun t ht => ?_, fun hconf hm hp ho hf => ⟨Memory.ofBytes f, ?_, Memory.wf_ofBytes f, Memory.read_ofBytes f⟩⟩
  · obtain ⟨⟨-, hf⟩, ⟨hconf, hm, hp, ho⟩, -⟩ := (exec_txBegin_iff hv f t).mp ht
    exact ⟨hconf, hm, hp, ho, hf⟩
  · rw [(exec_txBegin_iff hv f _).mpr ⟨⟨length_of_builtByCodec s.cfg f hc hf, hf⟩, ⟨hconf, hm, hp, ho⟩, rfl⟩,
      begun_state_eq]
    rfl

/-- Settles O14. -/
theorem txDataDrivesTheBit : Obligations.TxDataDrivesTheBit := by
  intro s x v hv hout hlow hi ho
  refine ⟨fun t ht => ((exec_txData_iff hv t).mp ht).1.1, fun hp => (exec_txData_iff hv _).mpr ⟨⟨hp, hi⟩, ?_⟩⟩
  refine (resolveLink_setDev_of_output hv _ ?_ ho).trans (congrArg _ ?_)
  · exact hout
  · simp only [hlow, driveLines_low]
    rfl

/-- Settles O15. -/
theorem txRiseDeliversTheBit : Obligations.TxRiseDeliversTheBit := by
  intro s x v hv hout hl ho
  refine ⟨fun t ht => ((exec_txRise_iff hv t).mp ht).1, fun hp hw => ?_⟩
  obtain ⟨hsender, hothers⟩ := getElem?_map_deliverEdge s x v
    (v.risen s.cfg.t_pulse) v.data_out hv hout ho
  refine ⟨_, (exec_txRise_iff hv _).mpr ⟨⟨hp, hw⟩, ?_⟩, ?_, hsender, hothers⟩
  · exact (resolveLink_setDev_of_output hv (v.risen s.cfg.t_pulse) hout ho).trans (congrArg _ (driveLines_rise _ _ hl))
  · rw [List.length_map, List.length_set]

/-- Settles O16. -/
theorem txFallEndsThePulse : Obligations.TxFallEndsThePulse := by
  intro s x v hv hout ho
  refine ⟨fun t ht => ((exec_txFall_iff hv t).mp ht).1, fun hp hw => (exec_txFall_iff hv _).mpr ⟨⟨hp, hw⟩, ?_⟩⟩
  refine (resolveLink_setDev_of_output hv _ ?_ ho).trans (congrArg _ (driveLines_low _ _))
  exact hout

/-- Settles O17. -/
theorem txNextGoesToTheNextBit : Obligations.TxNextGoesToTheNextBit := fun _ _ _ hv =>
  ⟨fun t ht => ((exec_txNext_iff hv t).mp ht).1, fun hp hw hi => (exec_txNext_iff hv _).mpr ⟨⟨hp, hw, hi⟩, rfl⟩⟩

/-- Settles O18. -/
theorem txFrameholdHoldsTheLines : Obligations.TxFrameholdHoldsTheLines := fun _ _ _ hv =>
  ⟨fun t ht => ((exec_txFramehold_iff hv t).mp ht).1,
    fun hp hw hi => (exec_txFramehold_iff hv _).mpr ⟨⟨hp, hw, hi⟩, rfl⟩⟩

/-- Settles O19: with the device no longer driving, no driver is left. -/
theorem txEndReturnsToReceiving : Obligations.TxEndReturnsToReceiving := by
  intro s x v hv ho
  refine ⟨fun t ht => ((exec_txEnd_iff hv t).mp ht).1, fun hp hw => (exec_txEnd_iff hv _).mpr ⟨⟨hp, hw⟩, ?_⟩⟩
  rw [resolveLink_setDev_of_input (s := s.report (.sendReturned x)) hv _ rfl ho]
  rfl

end Sys2Proof
end

section
/-! PROOFS. `TX_BEGIN` and `PUSH` are no turns: what a turn fetches to be run is never one of them, so a device starts to transmit
only in `SEND` or `SEND_REQUEST`, and a queue grows only in `REASM_ACCEPT` (rules R192, R220, R228; log entries 12 and 13). -/

namespace Sys2Proof.Machine

theorem isInternal_txBegin (x : Nat) (f : Frame) : isInternal (.txBegin x f) ≠ false := by simp [isInternal, Instr.row]

theorem isInternal_push (x : Nat) (f : Frame) : isInternal (.push x f) ≠ false := by simp [isInternal, Instr.row]

theorem fetchTurn_instr_not_internal (s : State) (t : Turn) (i : Instr) (h : fetchTurn s t = .instr i) :
    isInternal i = false := by
  unfold fetchTurn at h
  split at h
  · cases h
  · split at h
    · split at h
      · cases h
      · next hi =>
        cases h
        exact Bool.eq_false_iff.mpr hi
    · cases h

/-- The device after a transmission began holds the bytes of the frame in `tx_buf` (rule R192). -/
theorem tx_buf_of_beginTransmit (s t : State) (x : Nat) (f : Frame) (w : Device) (h : beginTransmit s x f = .next t)
    (hw : t.devs[x]? = some w) (a : Nat) : w.tx_buf.read a = f.getD a 0 := by
  obtain ⟨v, rfl⟩ := device_of_beginTransmit s t x f w h hw
  exact Memory.read_ofBytes f a

/-- A step that changes a mode runs an instruction that an agent performs by itself. -/
theorem step_mode_changes (s t : State) (x : Nat) (v w : Device) (h : step s = .next t) (hv : s.devs[x]? = some v)
    (hw : t.devs[x]? = some w) (hm : w.mode ≠ v.mode) :
    ∃ i, fetch s = .instr i ∧ exec i (afterFetch s) = .next t ∧ isInternal i = false := by
  rcases (step_eq_next s t).mp h with ⟨i, hf, he⟩ | ⟨y, e, -, he⟩
  · exact ⟨i, hf, he, fetchTurn_instr_not_internal _ _ i hf⟩
  · obtain ⟨p, rfl⟩ := applyLineFault_device y e (afterFetch s) t x v w he hv hw
    exact absurd rfl hm

end Sys2Proof.Machine

namespace Sys2Proof
open Machine

/-- Settles O60: the third part by the law of the modes, the fourth by the law of the queues. -/
theorem internalOperationsAreNoTurns : Obligations.InternalOperationsAreNoTurns := by
  refine ⟨fun s t x f => ⟨fun h => ?_, fun h => ?_⟩, fun s x f h => ?_, fun s t x v w h hv hw hrecv htx => ?_,
    fun s t x v w h hv hw hlt => ?_⟩
  · exact absurd (fetchTurn_instr_not_internal s t _ h) (isInternal_txBegin x f)
  · exact absurd (fetchTurn_instr_not_internal s t _ h) (isInternal_push x f)
  · rcases h with h | h
    · exact ⟨_, step_of_fetch_internal s _ h⟩
    · exact ⟨_, step_of_fetch_internal s _ h⟩
  · obtain ⟨i, hf, he, hi⟩ := step_mode_changes s t x v w h hv hw (by rw [htx, hrecv]; decide)
    obtain ⟨u, p, hmove, rfl⟩ := exec_move i (afterFetch s) t x v w he hv hw
    rcases hmove.mode_cases with hm | ⟨-, -, hb⟩ | ⟨hm, -⟩
    · exact absurd (htx.symm.trans (hm.trans hrecv)) (by decide)
    · rcases hb with ⟨f, rfl⟩ | ⟨path, kind, val, rfl⟩ | ⟨target, rfl⟩
      · exact absurd hi (isInternal_txBegin x f)
      · obtain ⟨-, -, hbegin⟩ := (execSend_eq_next x path kind val _ t).mp he
        exact ⟨_, tx_buf_of_beginTransmit _ t x _ _ hbegin hw, .inr ⟨kind, path, val, hf, rfl⟩⟩
      · have hbegin := (execSendRequest_eq_next x target _ t).mp he
        exact ⟨_, tx_buf_of_beginTransmit _ t x _ _ hbegin hw, .inl ⟨target, hf, rfl⟩⟩
    · exact absurd (htx.symm.trans hm) (by decide)
  · rcases queueMoves.2 s t x v w h hv hw with hq | ⟨hq, -, -, -, -, hf⟩ | ⟨f, hq, -⟩ | ⟨hq, -⟩
    · rw [hq] at hlt
      exact absurd hlt (Nat.lt_irrefl _)
    · exact ⟨hf, hq⟩
    · rw [hq, List.length_cons] at hlt
      omega
    · rw [hq] at hlt
      exact absurd hlt (Nat.not_lt_zero _)

end Sys2Proof
end

section
/-! PROOFS. A transmission: what an operation makes of the wait, the index and the outputs of a device that keeps
transmitting, read off `DeviceMove` (rules R34, R108, R109, R191, R199, R200). -/

namespace Sys2Proof.Machine

/-! Time passes in `TICK` only (rule R262). -/

theorem resolveLink_now (s t : State) (h : resolveLink s = .next t) : t.now = s.now := by
  rcases (resolveLink_eq_next s t).mp h with ⟨-, rfl⟩ | ⟨a, -, rfl⟩ <;> rfl

theorem resolveLink_setDev_now (s t : State) (x : Nat) (w : Device) (h : resolveLink (s.setDev x w) = .next t) :
    t.now = s.now := resolveLink_now (s.setDev x w) t h

theorem beginTransmit_now (s t : State) (x : Nat) (f : Frame) (h : beginTransmit s x f = .next t) : t.now = s.now := by
  obtain ⟨v, -, -, -, -, -, rfl⟩ := (beginTransmit_eq_next s t x f).mp h
  rw [begun_state_eq]

theorem reportReading_now (s t : State) (x : Nat) (path : List Byte) (w : View)
    (h : reportReading s x path w = .next t) : t.now = s.now := by
  obtain ⟨-, -, rfl⟩ := (reportReading_eq_next s t x path w).mp h
  rfl

theorem acceptFrame_now (s : State) (x : Nat) (v : Device) : (acceptFrame s x v).now = s.now := by
  rw [acceptFrame_eq]
  split <;> rfl

theorem waitInPhase_now (s t : State) (x : Nat) (p : TxPhase) (h : waitInPhase x p s = .next t) : t.now = s.now := by
  obtain ⟨_, -, -, rfl⟩ := (waitInPhase_eq_next s t x p).mp h
  rfl

theorem exec_now (i : Instr) (s t : State) (h : exec i s = .next t) (hi : i ≠ .tick) : t.now = s.now := by
  cases i with
  | kindUnknown x r p val | kindRequestOnly x r p val | kindFloat x r p val | kindDouble x r p val
  | kindInt64 x r p val | kindUint64 x r p val => exact reportReading_now s t x p _ h
  | kindReserved6 x b r p val | kindReserved8 x b r p val | kindReserved16 x b r p val | kindReserved32 x b r p val
  | kindReserved64 x b r p val | kindReserved128 x b r p val => exact reportReading_now s t x p _ h
  | sample x d =>
    obtain ⟨_, -, -, rfl⟩ := (execSample_eq_next x d s t).mp h
    rfl
  | edgeOverrun x d =>
    obtain ⟨_, -, -, rfl⟩ := (execEdgeOverrun_eq_next x d s t).mp h
    rfl
  | edgeMasked x d =>
    obtain ⟨_, -, -, rfl⟩ := (execEdgeMasked_eq_next x d s t).mp h
    rfl
  | noedgeLow x =>
    obtain ⟨_, -, rfl⟩ := (execNoedgeLow_eq_next x s t).mp h
    rfl
  | noedgeFall x =>
    obtain ⟨_, -, rfl⟩ := (execNoedgeFall_eq_next x s t).mp h
    rfl
  | noedgeHigh x =>
    obtain ⟨_, -, rfl⟩ := (execNoedgeHigh_eq_next x s t).mp h
    rfl
  | reasmAcceptSelf x =>
    obtain ⟨v, -, -, rfl⟩ := (execReasmAcceptSelf_eq_next x s t).mp h
    exact acceptFrame_now s x v
  | reasmAcceptCoord x =>
    obtain ⟨v, -, -, rfl⟩ := (execReasmAcceptCoord_eq_next x s t).mp h
    exact acceptFrame_now s x v
  | reasmReject x =>
    obtain ⟨_, -, -, rfl⟩ := (execReasmReject_eq_next x s t).mp h
    rfl
  | reasmAbandon x =>
    obtain ⟨_, -, -, rfl⟩ := (execReasmAbandon_eq_next x s t).mp h
    rfl
  | reasmNop x =>
    obtain ⟨_, -, -, rfl⟩ := (execReasmNop_eq_next x s t).mp h
    rfl
  | txBegin x f => exact beginTransmit_now s t x f ((execTxBegin_eq_next x f s t).mp h).2
  | txData x =>
    obtain ⟨_, -, -, -, hr⟩ := (execTxData_eq_next x s t).mp h
    exact resolveLink_setDev_now s t x _ hr
  | txRise x =>
    obtain ⟨_, -, -, hr⟩ := (execTxRise_eq_next x s t).mp h
    exact resolveLink_setDev_now s t x _ hr
  | txFall x =>
    obtain ⟨_, -, -, hr⟩ := (execTxFall_eq_next x s t).mp h
    exact resolveLink_setDev_now s t x _ hr
  | txNext x =>
    obtain ⟨_, -, -, rfl⟩ := (execTxNext_eq_next x s t).mp h
    rfl
  | txFramehold x =>
    obtain ⟨_, -, -, rfl⟩ := (execTxFramehold_eq_next x s t).mp h
    rfl
  | txEnd x =>
    obtain ⟨_, -, -, hr⟩ := (execTxEnd_eq_next x s t).mp h
    exact resolveLink_setDev_now (s.report (.sendReturned x)) t x _ hr
  | txWaitSetup x | txWaitHigh x | txWaitLow x | txWaitFramehold x => exact waitInPhase_now s t x _ h
  | txUnreachable x =>
    obtain ⟨_, -, -, rfl⟩ := (execTxUnreachable_eq_next x s t).mp h
    rfl
  | configure x id =>
    obtain ⟨_, -, -, rfl⟩ := (execConfigure_eq_next x id s t).mp h
    rfl
  | send x p k val =>
    obtain ⟨-, -, hb⟩ := (execSend_eq_next x p k val s t).mp h
    exact beginTransmit_now s t x _ hb
  | sendRequest x a => exact beginTransmit_now s t x _ ((execSendRequest_eq_next x a s t).mp h)
  | poll x =>
    obtain ⟨_, -, -, ⟨-, rfl⟩ | ⟨_, _, -, rfl⟩⟩ := (execPoll_eq_next x s t).mp h
    · rfl
    · rfl
  | encodeData x k p val =>
    obtain ⟨-, -, -, rfl⟩ := (execEncodeData_eq_next x k p val s t).mp h
    rfl
  | encodeRequest x a =>
    obtain ⟨_, -, rfl⟩ := (execEncodeRequest_eq_next x a s t).mp h
    rfl
  | decodeFrame x f =>
    obtain ⟨_, -, -, rfl⟩ := (execDecodeFrame_eq_next x f s t).mp h
    rfl
  | push x f =>
    obtain ⟨_, -, -, rfl⟩ := (execPush_eq_next x f s t).mp h
    rfl
  | tick => exact absurd rfl hi
  | linkResolve => exact resolveLink_now s t h
  | reset x =>
    obtain ⟨_, -, hr⟩ := (execReset_eq_next x s t).mp h
    exact resolveLink_setDev_now s t x _ hr

/-- A `TICK` that runs waits for no device (rule R258 (b)). -/
theorem letsTimePass_of_exec_tick (s t : State) (v : Device) (h : exec .tick s = .next t) (hv : v ∈ s.devs) :
    letsTimePass s.cfg v = true :=
  List.all_eq_true.mp ((execTick_eq_next s t).mp h).1 v hv

theorem exec_tick_now (s t : State) (h : exec .tick s = .next t) : t.now = s.now + 1 := by
  obtain ⟨-, rfl⟩ := (execTick_eq_next s t).mp h
  rfl

section
variable {c : Params} {v : Device}

/-! `ticksLeft` and `bitsOut`, phase by phase. -/

theorem ticksLeft_of_load (hp : v.tx_phase = .load) :
    ticksLeft c v = (c.N - v.tx_index) * c.T_BIT + c.t_frame_hold := by
  simp only [ticksLeft, hp]

theorem ticksLeft_of_setup (hp : v.tx_phase = .setup) :
    ticksLeft c v =
      v.tx_wait + (c.t_pulse + c.t_bit_hold) + (c.N - 1 - v.tx_index) * c.T_BIT + c.t_frame_hold := by
  simp only [ticksLeft, hp]

theorem ticksLeft_of_high (hp : v.tx_phase = .high) :
    ticksLeft c v = v.tx_wait + c.t_bit_hold + (c.N - 1 - v.tx_index) * c.T_BIT + c.t_frame_hold := by
  simp only [ticksLeft, hp]

theorem ticksLeft_of_low (hp : v.tx_phase = .low) :
    ticksLeft c v = v.tx_wait + (c.N - 1 - v.tx_index) * c.T_BIT + c.t_frame_hold := by
  simp only [ticksLeft, hp]

theorem ticksLeft_of_framehold (hp : v.tx_phase = .framehold) : ticksLeft c v = v.tx_wait := by
  simp only [ticksLeft, hp]

theorem bitsOut_of_load_or_setup (hp : v.tx_phase = .load ∨ v.tx_phase = .setup) : bitsOut v = v.tx_index := by
  rcases hp with hp | hp <;> simp only [bitsOut, hp]

theorem bitsOut_of_high_or_low (hp : v.tx_phase = .high ∨ v.tx_phase = .low) : bitsOut v = v.tx_index + 1 := by
  rcases hp with hp | hp <;> simp only [bitsOut, hp]

theorem bitsOut_of_framehold (hp : v.tx_phase = .framehold) : bitsOut v = v.tx_index := by
  simp only [bitsOut, hp]

/-- `TX_BEGIN` has put nothing on the wire yet (rule R200). -/
theorem bitsOut_enterTransmit (v : Device) (f : Frame) : bitsOut (v.enterTransmit f) = 0 :=
  bitsOut_of_load_or_setup (.inl (Device.enterTransmit_tx_phase v f))

/-- The cells still to come, with the cell of the current bit set apart (rule R108). -/
theorem cells_left (c : Params) (k : Nat) (hk : k < c.N) :
    (c.N - k) * c.T_BIT = (c.N - 1 - k) * c.T_BIT + (2 * c.t_bit_hold + c.t_pulse) := by
  rw [show c.N - k = c.N - 1 - k + 1 by omega, Nat.succ_mul]
  rfl

theorem DeviceRanges.bitsOut_le (h : DeviceRanges c v) : bitsOut v ≤ c.N := by
  have hle := h.index_le
  have hcell := h.index_in_cell
  cases hp : v.tx_phase with
  | load => rwa [bitsOut_of_load_or_setup (.inl hp)]
  | setup => rwa [bitsOut_of_load_or_setup (.inr hp)]
  | high => rw [bitsOut_of_high_or_low (.inl hp)]; exact hcell (by simp [hp])
  | low => rw [bitsOut_of_high_or_low (.inr hp)]; exact hcell (by simp [hp])
  | framehold => rwa [bitsOut_of_framehold hp]
  | off | code6 | code7 => simp only [bitsOut, hp, Nat.zero_le]

/-- The strobe output is high in phase `HIGH` alone. -/
theorem DeviceRanges.strobe_low (h : DeviceRanges c v) (hp : v.tx_phase ≠ .high) : v.strobe_out = false :=
  Bool.eq_false_iff.mpr fun hs => hp (h.strobe_high.mp hs)

/-! One `TICK` of a device that transmits: it waits, so its wait is not over (rules R112, R258 (b)). -/

theorem tx_wait_pos_of_letsTimePass (h : DeviceInv c v) (hm : v.mode = .transmitting) (ht : letsTimePass c v = true) :
    0 < v.tx_wait ∧ v.tx_phase ≠ .load := by
  obtain ⟨-, -, -, hoff⟩ := h.safe.transmitting hm
  obtain ⟨h6, h7⟩ := h.ranges.phase_legal
  have hen : txEnabled c v = false := by
    simp only [letsTimePass, Bool.and_eq_true, Bool.not_eq_true'] at ht
    exact ht.1.2
  refine ⟨Nat.pos_of_ne_zero fun hw => ?_, fun hp => ?_⟩
  · cases hp : v.tx_phase with
    | low =>
      have hi := h.ranges.index_in_cell (by simp [hp])
      simp [txEnabled, hp, hw, hi] at hen
    | load | setup | high | framehold => simp [txEnabled, hp, hw] at hen
    | off => exact hoff hp
    | code6 => exact h6 hp
    | code7 => exact h7 hp
  · simp [txEnabled, hp] at hen

theorem ticksLeft_tick (h : DeviceInv c v) (hm : v.mode = .transmitting) (ht : letsTimePass c v = true) :
    ticksLeft c v.tick + 1 = ticksLeft c v := by
  obtain ⟨-, -, -, hoff⟩ := h.safe.transmitting hm
  obtain ⟨h6, h7⟩ := h.ranges.phase_legal
  obtain ⟨hw, hload⟩ := tx_wait_pos_of_letsTimePass h hm ht
  cases hp : v.tx_phase with
  | setup => rw [ticksLeft_of_setup hp, ticksLeft_of_setup (v := v.tick) hp, Device.tick_tx_wait, Device.tick_tx_index]; omega
  | high => rw [ticksLeft_of_high hp, ticksLeft_of_high (v := v.tick) hp, Device.tick_tx_wait, Device.tick_tx_index]; omega
  | low => rw [ticksLeft_of_low hp, ticksLeft_of_low (v := v.tick) hp, Device.tick_tx_wait, Device.tick_tx_index]; omega
  | framehold => rw [ticksLeft_of_framehold hp, ticksLeft_of_framehold (v := v.tick) hp, Device.tick_tx_wait]; omega
  | load => exact absurd hp hload
  | off => exact absurd hp hoff
  | code6 => exact absurd hp h6
  | code7 => exact absurd hp h7

/-! One operation of a device that keeps transmitting. -/

section
variable {y : Nat} {u : Device} {i : Instr}

/-- The operations that start or end a transmission do not run while it goes on (rule R231). -/
theorem DeviceMove.tx_buf_eq (h : DeviceMove c y v i u) (hv : v.mode = .transmitting) (hu : u.mode = .transmitting) :
    u.tx_buf = v.tx_buf := by
  cases h with
  | txBegin _ _ _ _ _ hm _ => exact absurd (hm.symm.trans hv) (by decide)
  | reset => exact absurd hu (by simp [Device.initial])
  | _ => rfl

/-- What is left of a transmission does not change in an operation that takes no time (rule R199). -/
theorem DeviceMove.ticksLeft_eq (h : DeviceMove c y v i u) (hv : v.mode = .transmitting) (hu : u.mode = .transmitting)
    (hi : i ≠ .tick) : ticksLeft c u = ticksLeft c v := by
  cases h with
  | txData hp hk =>
    rw [ticksLeft_of_load hp, cells_left c _ hk, ticksLeft_of_setup rfl]
    dsimp only
    omega
  | txRise hp hw =>
    rw [ticksLeft_of_setup hp, hw, ticksLeft_of_high rfl]
    dsimp only
    omega
  | txFall hp hw =>
    rw [ticksLeft_of_high hp, hw, ticksLeft_of_low rfl]
    dsimp only
    omega
  | txNext hp hw hk =>
    rw [ticksLeft_of_low hp, hw, ticksLeft_of_load rfl, Nat.zero_add, Nat.sub_sub, Nat.add_comm 1]
  | txFramehold hp hw hk =>
    rw [ticksLeft_of_low hp, hw, hk, ticksLeft_of_framehold rfl, Nat.sub_self, Nat.zero_mul, Nat.zero_add]
  | txBegin _ _ _ _ _ hm _ => exact absurd (hm.symm.trans hv) (by decide)
  | txEnd => exact absurd hu (by simp)
  | tick => exact absurd rfl hi
  | reset => exact absurd hu (by simp [Device.initial])
  | _ => rfl

/-- The wire (rule R200): `TX_RISE` raises the strobe output and puts one more bit out, and nothing else does either. -/
theorem DeviceMove.wire_cases (h : DeviceMove c y v i u) (hv : v.mode = .transmitting) (hu : u.mode = .transmitting) :
    (i = .txRise y ∧ v.tx_phase = .setup ∧ v.tx_wait = 0 ∧ u = v.risen c.t_pulse) ∨
      ¬(v.strobe_out = false ∧ u.strobe_out = true) ∧ bitsOut u = bitsOut v := by
  have kept : u.strobe_out = v.strobe_out → ¬(v.strobe_out = false ∧ u.strobe_out = true) := by
    rintro hs ⟨hlow, hhigh⟩
    exact absurd (hlow.symm.trans (hs.symm.trans hhigh)) (by decide)
  cases h with
  | txRise hp hw => exact .inl ⟨rfl, hp, hw, rfl⟩
  | txData hp _ =>
    exact .inr ⟨kept rfl, (bitsOut_of_load_or_setup (.inr rfl)).trans (bitsOut_of_load_or_setup (.inl hp)).symm⟩
  | txFall hp _ =>
    exact .inr ⟨fun hs => Bool.false_ne_true hs.2,
      (bitsOut_of_high_or_low (.inr rfl)).trans (bitsOut_of_high_or_low (.inl hp)).symm⟩
  | txNext hp _ _ =>
    exact .inr ⟨kept rfl, (bitsOut_of_load_or_setup (.inl rfl)).trans (bitsOut_of_high_or_low (.inr hp)).symm⟩
  | txFramehold hp _ hk =>
    have hN := N_pos c
    have hlast : c.N = v.tx_index + 1 := by omega
    exact .inr ⟨kept rfl, (bitsOut_of_framehold rfl).trans (hlast.trans (bitsOut_of_high_or_low (.inr hp)).symm)⟩
  | txBegin _ _ _ _ _ hm _ => exact absurd (hm.symm.trans hv) (by decide)
  | txEnd => exact absurd hu (by simp)
  | reset => exact absurd hu (by simp [Device.initial])
  | _ => exact .inr ⟨kept rfl, rfl⟩

end

end

/-- The bit that `TX_RISE` puts on the wire (rules R34, R200). -/
theorem risen_puts_bit {c : Params} {v : Device} (h : DeviceRanges c v) (hp : v.tx_phase = .setup) (pulse : Nat) :
    bitsOut (v.risen pulse) = bitsOut v + 1 ∧ v.data_out = v.tx_buf.bit (bitsOut v) := by
  rw [bitsOut_of_load_or_setup (.inr hp), bitsOut_of_high_or_low (.inl (Device.risen_tx_phase v pulse))]
  exact ⟨rfl, h.data_held (.inl hp)⟩

/-- What is left of a transmission, and `now` (rule R199). -/
theorem exec_ticksLeft (i : Instr) (s t : State) (x : Nat) (v w : Device) (hi : DeviceInv s.cfg v)
    (h : exec i s = .next t) (hv : s.devs[x]? = some v) (hw : t.devs[x]? = some w) (hm : v.mode = .transmitting)
    (hm' : w.mode = .transmitting) : ticksLeft s.cfg w + t.now = ticksLeft s.cfg v + s.now := by
  by_cases htick : i = .tick
  · subst htick
    have hpass := letsTimePass_of_exec_tick s t v h (List.mem_of_getElem? hv)
    obtain ⟨-, rfl⟩ := (execTick_eq_next s t).mp h
    rw [List.getElem?_map, hv, Option.map_some] at hw
    cases hw
    have hleft := ticksLeft_tick hi hm hpass
    show ticksLeft s.cfg v.tick + (s.now + 1) = ticksLeft s.cfg v + s.now
    omega
  · obtain ⟨u, p, hmove, rfl⟩ := exec_move i s t x v w h hv hw
    rw [exec_now i s t h htick]
    exact congrArg (· + s.now) (hmove.ticksLeft_eq hm hm' htick)

end Sys2Proof.Machine

namespace Sys2Proof
open Machine

/-- Settles O56: in a step by `exec_ticksLeft`; a line fault takes no time and leaves the transmitter. -/
theorem transmissionTakesItsTime : Obligations.TransmissionTakesItsTime := by
  refine ⟨fun s t x f w h hw => ?_, fun s t x v w hi h hv hw hm hm' => ?_, fun s t x v hi hv h => ?_,
    fun s t x v hv h => ?_⟩
  · obtain ⟨v, rfl⟩ := device_of_beginTransmit s t x f w ((execTxBegin_eq_next x f s t).mp h).2 hw
    obtain ⟨hc, -⟩ := (exec_linkEffect _ s t h).frame
    rw [hc, ticksLeft_of_load (Device.enterTransmit_tx_phase v f), exec_now _ s t h (by simp)]
    exact ⟨rfl, rfl⟩
  · obtain ⟨hc, -⟩ := (step_linkEffect s t h).frame
    rw [hc]
    rcases (step_eq_next s t).mp h with ⟨i, -, he⟩ | ⟨y, e, -, he⟩
    · exact exec_ticksLeft i (afterFetch s) t x v w (hi.deviceInv v (List.mem_of_getElem? hv)) he hv hw hm hm'
    · obtain ⟨p, rfl⟩ := applyLineFault_device y e (afterFetch s) t x v w he hv hw
      obtain ⟨u, q, -, rfl⟩ := applyLineFault_update y e (afterFetch s) t he
      rfl
  · obtain ⟨⟨hp, hwait⟩, -⟩ := (exec_txRise_iff hv t).mp h
    have hk : v.tx_index < s.cfg.N := (hi.device_ranges v (List.mem_of_getElem? hv)).index_in_cell (by simp [hp])
    have hcells := cells_left s.cfg v.tx_index hk
    have hall : (s.cfg.N - v.tx_index) * s.cfg.T_BIT + v.tx_index * s.cfg.T_BIT = s.cfg.N * s.cfg.T_BIT := by
      rw [← Nat.add_mul, Nat.sub_add_cancel (Nat.le_of_lt hk)]
    rw [ticksLeft_of_setup hp, hwait]
    omega
  · obtain ⟨⟨hp, hwait⟩, -⟩ := (exec_txEnd_iff hv t).mp h
    rw [ticksLeft_of_framehold hp, hwait]

/-- Settles O57: an operation moves the wire as `wire_cases` says, a line fault does not. -/
theorem transmissionMakesItsWaveform : Obligations.TransmissionMakesItsWaveform := by
  refine ⟨fun s t x v w hi h hv hw hm hm' => ?_, fun s t x f w h hw => ?_, fun s v hi hv hp => ?_⟩
  · rcases step_move s t x v w h hv hw with ⟨i, u, p, hmove, rfl⟩ | ⟨p, rfl⟩
    · have hr := hi.device_ranges v (List.mem_of_getElem? hv)
      refine ⟨hmove.tx_buf_eq hm hm', ?_⟩
      rcases hmove.wire_cases hm hm' with ⟨-, hp, -, rfl⟩ | ⟨hno, hbits⟩
      · have hlow : v.strobe_out = false := hr.strobe_low (by simp [hp])
        exact ⟨fun _ => risen_puts_bit hr hp s.cfg.t_pulse, fun hno => absurd ⟨hlow, rfl⟩ hno⟩
      · exact ⟨fun hrise => absurd hrise hno, fun _ => hbits⟩
    · exact ⟨rfl, fun ⟨hlow, hhigh⟩ => absurd (hlow.symm.trans hhigh) (by decide), fun _ => rfl⟩
  · obtain ⟨v, rfl⟩ := device_of_beginTransmit s t x f w ((execTxBegin_eq_next x f s t).mp h).2 hw
    exact bitsOut_enterTransmit v f
  · exact (bitsOut_of_framehold hp).trans ((hi.device_ranges v hv).index_in_hold hp)

end Sys2Proof
end

section
/-! PROOFS. A receiver that follows a sender: `Follows a b` is kept by what the receiver does, by what the sender does, and by the
rise that puts one more bit out and delivers it (rules R159, R200, R201, R258, R270). -/

namespace Sys2Proof.Machine

/-- The sender is where a receiver may still have the edge of the last rise pending (rule R258). -/
def EdgeWindow (a : Device) : Prop := a.tx_phase = .high ∨ a.tx_phase = .low ∧ 0 < a.tx_wait

theorem follows_iff (a b : Device) :
    Follows a b ↔
      (∀ o, o < b.bit_offset → b.raw.bit o = a.tx_buf.bit o) ∧
        (b.edge_pending = none ∧ b.bit_offset = bitsOut a ∨
          b.bit_offset + 1 = bitsOut a ∧ b.edge_pending = some (a.tx_buf.bit b.bit_offset) ∧ EdgeWindow a) := Iff.rfl

section
variable {a b : Device}

/-! What `Follows` says with and without a pending edge. -/

theorem Follows.bits (h : Follows a b) (o : Nat) (ho : o < b.bit_offset) : b.raw.bit o = a.tx_buf.bit o :=
  ((follows_iff a b).mp h).1 o ho

theorem Follows.offset_of_no_edge (h : Follows a b) (he : b.edge_pending = none) : b.bit_offset = bitsOut a := by
  rcases ((follows_iff a b).mp h).2 with ⟨-, ho⟩ | ⟨-, hsome, -⟩
  · exact ho
  · exact absurd (he.symm.trans hsome) (by simp)

theorem Follows.of_edge (h : Follows a b) (d : Bool) (he : b.edge_pending = some d) :
    b.bit_offset + 1 = bitsOut a ∧ d = a.tx_buf.bit b.bit_offset ∧ EdgeWindow a := by
  rcases ((follows_iff a b).mp h).2 with ⟨hnone, -⟩ | ⟨ho, hsome, hwin⟩
  · exact absurd (he.symm.trans hnone) (by simp)
  · exact ⟨ho, Option.some.inj (he.symm.trans hsome), hwin⟩

/-- In phase `SETUP` the edge of the bit before has been taken. -/
theorem Follows.no_edge_of_setup (h : Follows a b) (hp : a.tx_phase = .setup) : b.edge_pending = none := by
  cases he : b.edge_pending with
  | none => rfl
  | some d =>
    obtain ⟨-, -, hhigh | ⟨hlow, -⟩⟩ := h.of_edge d he
    · exact absurd (hp.symm.trans hhigh) (by decide)
    · exact absurd (hp.symm.trans hlow) (by decide)

/-! The three ways it is kept. -/

/-- `SAMPLE` stores the pending bit at its place (rule R159). -/
theorem Follows.sampled (h : Follows a b) (d : Bool) (he : b.edge_pending = some d) (hwf : b.raw.wf = true) :
    Follows a (b.sampled d) := by
  obtain ⟨hnext, rfl, -⟩ := h.of_edge d he
  refine (follows_iff _ _).mpr ⟨fun o ho => ?_, .inl ⟨rfl, hnext⟩⟩
  rw [Device.sampled_raw, Memory.bit_setBitAt _ _ _ _ hwf]
  split
  · next heq => rw [heq]
  · next hne =>
    rw [Device.sampled_bit_offset] at ho
    exact h.bits o (by omega)

/-- A receiver that has stored nothing yet may clear its buffer. -/
theorem Follows.of_empty {u : Device} (h : Follows a b) (hb : b.bit_offset = 0) (hu : u.bit_offset = 0)
    (he : u.edge_pending = b.edge_pending) : Follows a u := by
  have hrest := ((follows_iff a b).mp h).2
  rw [hb, ← he, ← hu] at hrest
  exact (follows_iff a u).mpr ⟨fun o ho => absurd ho (by omega), hrest⟩

/-- The sender may go on without a rise; with an edge pending it must stay where that is allowed. -/
theorem Follows.of_sender {a' : Device} (h : Follows a b) (hbuf : a'.tx_buf = a.tx_buf) (hbits : bitsOut a' = bitsOut a)
    (hwin : b.edge_pending ≠ none → EdgeWindow a → EdgeWindow a') : Follows a' b := by
  rw [follows_iff, hbuf, hbits]
  obtain ⟨hstored, hnone | ⟨hnext, hsome, hw⟩⟩ := (follows_iff a b).mp h
  · exact ⟨hstored, .inl hnone⟩
  · exact ⟨hstored, .inr ⟨hnext, hsome, hwin (by simp [hsome]) hw⟩⟩

/-- `TX_RISE` puts one more bit out and delivers it (rules R194, R200, R270). -/
theorem Follows.risen {c : Params} (h : Follows a b) (hr : DeviceRanges c a) (hp : a.tx_phase = .setup) (pulse : Nat) :
    Follows (a.risen pulse) { b with edge_pending := some a.data_out } := by
  have hoff := h.offset_of_no_edge (h.no_edge_of_setup hp)
  obtain ⟨hbits, hdata⟩ := risen_puts_bit hr hp pulse
  rw [← hoff] at hbits hdata
  exact (follows_iff _ _).mpr ⟨h.bits, .inr ⟨hbits.symm, congrArg some hdata, .inl rfl⟩⟩

end

/-! The moves of the receiver and of the sender. -/

section
variable {c : Params} {y : Nat} {v u : Device} {i : Instr}

/-- Every move of an armed receiver that is not cleared. -/
theorem DeviceMove.follows_receiver {a : Device} (h : DeviceMove c y v i u) (hi : DeviceInv c v)
    (hrx : v.rx_enable = true) (hrx' : u.rx_enable = true) (hoff : v.bit_offset ≤ u.bit_offset) (ha : bitsOut a ≤ c.N)
    (hf : Follows a v) : Follows a u := by
  cases h with
  | sample d he _ _ => exact hf.sampled d he hi.ranges.raw_wf
  | edgeOverrun d he _ hfull =>
    obtain ⟨hnext, -, -⟩ := hf.of_edge d he
    omega
  | edgeMasked d _ hr => exact absurd (hrx.symm.trans hr) (by decide)
  | acceptRoom | acceptFull | discard | configure => exact hf.of_empty (Nat.le_zero.mp hoff) rfl rfl
  | txBegin => exact absurd hrx' (by simp)
  | txEnd hp _ =>
    obtain ⟨-, hm⟩ := hi.safe.enabled hrx
    obtain ⟨-, hidle, -⟩ := hi.safe.receiving hm
    exact absurd (hp.symm.trans hidle) (by decide)
  | reset => exact absurd hrx' (by simp [Device.initial])
  | _ => exact hf

/-- The sender leaves the window of the edge only as time passes: `TX_FALL` starts a hold of at least one tick. -/
theorem DeviceMove.edgeWindow (h : DeviceMove c y v i u) (hv : v.mode = .transmitting) (hu : u.mode = .transmitting)
    (hi : i ≠ .tick) (hhold : 1 ≤ c.t_bit_hold) (hw : EdgeWindow v) : EdgeWindow u := by
  have waited : v.tx_phase = .low → v.tx_wait ≠ 0 := by
    intro hp
    rcases hw with hhigh | ⟨-, hpos⟩
    · exact absurd (hp.symm.trans hhigh) (by decide)
    · exact Nat.ne_of_gt hpos
  cases h with
  | txData hp _ => exact absurd hw (by simp [EdgeWindow, hp])
  | txRise => exact .inl rfl
  | txFall => exact .inr ⟨rfl, hhold⟩
  | txNext hp hzero _ => exact absurd hzero (waited hp)
  | txFramehold hp hzero _ => exact absurd hzero (waited hp)
  | txBegin _ _ _ _ _ hm _ => exact absurd (hm.symm.trans hv) (by decide)
  | txEnd => exact absurd hu (by simp)
  | tick => exact absurd rfl hi
  | reset => exact absurd hu (by simp [Device.initial])
  | _ => exact hw

end

/-! The lines between them. -/

/-- An instruction makes one move at every device, then the edge it delivers. -/
theorem exec_move_edge (i : Instr) (s t : State) (y : Nat) (v w : Device) (h : exec i s = .next t)
    (hv : s.devs[y]? = some v) (hw : t.devs[y]? = some w) :
    ∃ u, DeviceMove s.cfg y v i u ∧ edgeDelivered s t u w := by
  obtain ⟨u, hu, hd⟩ := exec_device i s t y v w h hv hw
  refine ⟨u, ?_, hd⟩
  rcases hu with ⟨rfl | rfl, he⟩ | ⟨-, rfl⟩
  · exact deviceEffect_move s.cfg v u i he
  · obtain ⟨ht, rfl⟩ := he
    exact .tick ht
  · exact .same i

/-- The strobe line carries the level of the device that drives it (rules R270, R273). -/
theorem LinkSafe.line_strobe_eq {s : State} (h : LinkSafe s) (x : Nat) (v : Device) (hv : s.devs[x]? = some v)
    (hp : v.pin_dir = .output) : s.line_strobe = v.strobe_out := by
  refine Bool.eq_iff_iff.mpr (h.strobe_driven.trans ⟨fun ⟨w, hw, hpw, hs⟩ => ?_, fun hs => ?_⟩)
  · obtain ⟨y, hy⟩ := List.mem_iff_getElem?.mp hw
    obtain rfl := h.one_driver x y v w hv hy hp hpw
    cases hv.symm.trans hy
    exact hs
  · exact ⟨v, List.mem_of_getElem? hv, hp, hs⟩

theorem LinkSafe.othersListen {s : State} (h : LinkSafe s) (x : Nat) (v : Device) (hv : s.devs[x]? = some v)
    (hp : v.pin_dir = .output) : OthersListen s x := by
  intro y w hy hw
  cases hpw : w.pin_dir with
  | input => rfl
  | output => exact absurd (h.one_driver y x w v hw hv hpw hp) hy

/-- Taking a turn off the schedule leaves the link as it is. -/
theorem LinkSafe.afterFetch {s : State} (h : LinkSafe s) : LinkSafe (afterFetch s) := ⟨h.one_driver, h.strobe_driven⟩

/-- Without a rise of the driver's output no edge is delivered. -/
theorem eq_of_edgeDelivered_of_no_rise (s t : State) (x : Nat) (a a' u w : Device) (hs : LinkSafe s) (ht : LinkSafe t)
    (ha : s.devs[x]? = some a) (ha' : t.devs[x]? = some a') (hp : a.pin_dir = .output) (hp' : a'.pin_dir = .output)
    (hno : ¬(a.strobe_out = false ∧ a'.strobe_out = true)) (h : edgeDelivered s t u w) : w = u := by
  rcases h with hu | ⟨-, -, hlow, hhigh⟩
  · exact hu
  · rw [hs.line_strobe_eq x a ha hp] at hlow
    rw [ht.line_strobe_eq x a' ha' hp'] at hhigh
    exact absurd ⟨hlow, hhigh⟩ hno

/-- A rise of the only driver gives another device the edge, and nothing else changes there (rules R194, R270). -/
theorem exec_txRise_receiver (s t : State) (x y : Nat) (a b b' : Device) (hxy : x ≠ y) (hs : LinkSafe s)
    (ha : s.devs[x]? = some a) (hb : s.devs[y]? = some b) (hb' : t.devs[y]? = some b') (hout : a.pin_dir = .output)
    (hlow : a.strobe_out = false) (hp : a.tx_phase = .setup) (hw : a.tx_wait = 0) (h : exec (.txRise x) s = .next t) :
    b' = { b with edge_pending := some a.data_out } := by
  obtain ⟨devs, hexec, -, -, hothers⟩ := (txRiseDeliversTheBit s x a ha hout
    ((hs.line_strobe_eq x a ha hout).trans hlow) (hs.othersListen x a ha hout)).2 hp hw
  cases h.symm.trans hexec
  exact Option.some.inj (hb'.symm.trans (hothers y b hxy.symm hb))

/-- No edge is pending across a `TICK` (rule R258 (b)). -/
theorem no_edge_after_tick (s t : State) (y : Nat) (w : Device) (h : exec .tick s = .next t)
    (hw : t.devs[y]? = some w) : w.edge_pending = none := by
  obtain ⟨-, rfl⟩ := (execTick_eq_next s t).mp h
  rw [List.getElem?_map, Option.map_eq_some_iff] at hw
  obtain ⟨v, hv, rfl⟩ := hw
  have hpass := letsTimePass_of_exec_tick s _ v h (List.mem_of_getElem? hv)
  simp only [letsTimePass, Bool.and_eq_true, Option.isNone_iff_eq_none] at hpass
  exact hpass.1.1

end Sys2Proof.Machine

namespace Sys2Proof
open Machine

/-- Settles O58: a rise of the sender's output by `Follows.risen`; without one no edge is delivered, so that the receiver makes
its own move, by `DeviceMove.follows_receiver`, and the sender its own, by `Follows.of_sender`. -/
theorem receiverFollowsTheSender : Obligations.ReceiverFollowsTheSender := by
  intro s t x y a b a' b' hxy hinv hhold hfault ha hb hm hrx hf h ha' hb' hm' hrx' hoff
  have hsafe := hinv.link_safe.afterFetch
  have hinv' := invariantKept s t hinv h
  have hia := hinv.deviceInv a (List.mem_of_getElem? ha)
  have hib := hinv.deviceInv b (List.mem_of_getElem? hb)
  obtain ⟨-, hout, -, -⟩ := hia.safe.transmitting hm
  obtain ⟨-, hout', -, -⟩ := (hinv'.device_safe a' (List.mem_of_getElem? ha')).transmitting hm'
  rcases (step_eq_next s t).mp h with ⟨i, -, he⟩ | ⟨z, e, -, he⟩
  · obtain ⟨u, p, hmove, rfl⟩ := exec_move i (afterFetch s) t x a a' he ha ha'
    rcases hmove.wire_cases hm hm' with ⟨rfl, hp, hw, rfl⟩ | ⟨hno, hbits⟩
    · have hlow : a.strobe_out = false := hia.ranges.strobe_low (by simp [hp])
      obtain rfl := exec_txRise_receiver (afterFetch s) t x y a b b' hxy hsafe ha hb hb' hout hlow hp hw he
      exact hf.risen hia.ranges hp s.cfg.t_pulse
    · obtain ⟨w, hmove', hedge⟩ := exec_move_edge i (afterFetch s) t y b b' he hb hb'
      obtain rfl := eq_of_edgeDelivered_of_no_rise (afterFetch s) t x a _ w b' hsafe hinv'.link_safe ha ha' hout hout'
        hno hedge
      have hreceiver : Follows a b' := hmove'.follows_receiver hib hrx hrx' hoff hia.ranges.bitsOut_le hf
      refine hreceiver.of_sender (hmove.tx_buf_eq hm hm') hbits fun hsome hwin => ?_
      by_cases htick : i = .tick
      · subst htick
        exact absurd (no_edge_after_tick (afterFetch s) t y b' he hb') hsome
      · exact hmove.edgeWindow hm hm' htick hhold hwin
  · obtain ⟨-, -, ⟨hon, -⟩, -⟩ := (applyLineFault_eq_next z e (afterFetch s) t).mp he
    exact absurd (hfault.symm.trans hon) (by decide)

/-- Settles O59: nothing is out and nothing stored after `TX_BEGIN`; at the end the stored bits are all the bits. -/
theorem followingDeliversTheFrame : Obligations.FollowingDeliversTheFrame := by
  refine ⟨fun s t x y f a b _ h ha hb hoff he => ?_, fun c a b hf hall he => ?_⟩
  · obtain ⟨⟨hlen, -⟩, hbegin⟩ := (execTxBegin_eq_next x f s t).mp h
    obtain ⟨v, rfl⟩ := device_of_beginTransmit s t x f a hbegin ha
    refine ⟨(follows_iff _ b).mpr ⟨fun o ho => absurd ho (by omega), .inl ⟨he, ?_⟩⟩, ?_⟩
    · exact hoff.trans (bitsOut_enterTransmit v f).symm
    · rw [← hlen]
      exact Memory.bytes_eq_of_bit_eq _ f fun o _ => Memory.bit_ofBytes f o
  · have hoff : b.bit_offset = c.N := (hf.offset_of_no_edge he).trans hall
    refine ⟨hoff, List.map_congr_left fun k hk => Memory.read_eq_of_bit_eq _ _ k fun j hj => hf.bits _ ?_⟩
    have hlt := List.mem_range.mp hk
    rw [hoff, Params.N]
    omega

end Sys2Proof
end

section
/-! PROOFS. The host operations and `PUSH`: what each answers at a device that the link has (rules R121, R220 to R228). -/

namespace Sys2Proof.Machine

section
variable {s : State} {x : Nat} {v : Device} (hv : s.devs[x]? = some v)
include hv

theorem exec_configure_iff (id : Address) (t : State) :
    exec (.configure x id) s = .next t ↔
      v.mode = .receiving ∧ t = s.setDev x { v.clearRx with own_id := id, configured := true, rx_enable := true } :=
  (execConfigure_eq_next x id s t).trans (by simp only [hv, Option.some.injEq, exists_eq_left'])

theorem exec_configure_of_transmitting (id : Address) (hm : v.mode = .transmitting) :
    exec (.configure x id) s = .refused .busyTransmitting :=
  (onDev_some s x _ v hv).trans (if_neg (by simp [hm]))

theorem exec_poll_iff (t : State) :
    exec (.poll x) s = .next t ↔
      v.configured = true ∧
        (v.queue = [] ∧ t = s.report (.polled x none) ∨
          ∃ f rest, v.queue = f :: rest ∧ t = (s.setDev x { v with queue := rest }).report (.polled x (some f))) :=
  (execPoll_eq_next x s t).trans (by simp only [hv, Option.some.injEq, exists_eq_left'])

theorem exec_poll_of_unconfigured (hc : v.configured = false) : exec (.poll x) s = .refused .notConfigured :=
  (onDev_some s x _ v hv).trans (if_pos hc)

theorem exec_push_iff (f : Frame) (t : State) :
    exec (.push x f) s = .next t ↔
      (v.bit_offset = s.cfg.N ∧ accepts v = true ∧ queueHasRoom v = true ∧ f = v.raw.bytes s.cfg.NB) ∧
        t = s.setDev x (v.pushFrame f) :=
  (execPush_eq_next x f s t).trans (by
    simp only [Bool.and_eq_true, complete_iff, beq_iff_eq, and_assoc, hv, Option.some.injEq, exists_eq_left'])

/-- `TX_BEGIN` at a free device of a link that no other device drives: the device transmits the frame (rule R192). -/
theorem exists_beginTransmit (f : Frame) (hc : v.configured = true) (hm : v.mode = .receiving) (hp : v.tx_phase = .off)
    (ho : OthersListen s x) :
    ∃ t w, beginTransmit s x f = .next t ∧ t.devs[x]? = some w ∧ w.mode = .transmitting ∧
      ∀ a, w.tx_buf.read a = f.getD a 0 := by
  refine ⟨_, v.enterTransmit f,
    (beginTransmit_eq_next s _ x f).mpr ⟨v, hv, hc, hm, hp, (otherDrives_eq_false s x).mpr ho, rfl⟩, ?_, rfl,
    Memory.read_ofBytes f⟩
  rw [begun_state_eq]
  exact setDev_getElem?_self s x v _ hv

end

end Sys2Proof.Machine

namespace Sys2Proof
open Machine

/-- Settles O23: `SEND` and `TX_BEGIN` of the encoded frame both come down to the same `beginTransmit`. -/
theorem sendTransmitsTheDataFrame : Obligations.SendTransmitsTheDataFrame := by
  intro s x path kind val v hv hlen hc hm hp ho hpath hkind
  have hz := (noZeroByte_iff path).mpr hpath
  have hk := (isValueKind_iff kind).mpr hkind
  have hbuilt : builtByCodec s.cfg (encodeDataFrame s.cfg kind path val) = true :=
    (builtByCodec_iff s.cfg _ hlen).mpr (.inr ⟨kind, path, val, hk, hz, rfl⟩)
  obtain ⟨t, w, hbegin, hw, hmode, hbuf⟩ := exists_beginTransmit hv (encodeDataFrame s.cfg kind path val) hc hm hp ho
  refine ⟨t, w, _, ?_, ?_, ?_, hw, hmode, hbuf⟩
  · exact (execSend_eq_next x path kind val s t).mpr ⟨hz, hk, hbegin⟩
  · exact (execEncodeData_eq_next x kind path val s _).mpr ⟨⟨v, hv⟩, hz, hk, rfl⟩
  · exact (execTxBegin_eq_next x _ s t).mpr ⟨⟨encodeDataFrame_length s.cfg kind path val hlen, hbuilt⟩, hbegin⟩

/-- Settles O24, as O23; a request has no domain to check. -/
theorem sendRequestTransmitsTheRequest : Obligations.SendRequestTransmitsTheRequest := by
  intro s x target v hv hc hm hp ho
  obtain ⟨t, w, hbegin, hw, hmode, hbuf⟩ := exists_beginTransmit hv (encodeRequestFrame s.cfg target) hc hm hp ho
  refine ⟨t, w, _, ?_, ?_, ?_, hw, hmode, hbuf⟩
  · exact (execSendRequest_eq_next x target s t).mpr hbegin
  · exact (execEncodeRequest_eq_next x target s _).mpr ⟨v, hv, rfl⟩
  · exact (execTxBegin_eq_next x _ s t).mpr
      ⟨⟨encodeRequestFrame_length s.cfg target, builtByCodec_request s.cfg target⟩, hbegin⟩

/-- Settles O22. -/
theorem configureArmsReception : Obligations.ConfigureArmsReception := fun _ _ id _ hv =>
  ⟨fun hm => (exec_configure_iff hv id _).mpr ⟨hm, rfl⟩, fun hm => ⟨_, exec_configure_of_transmitting hv id hm⟩⟩

/-- Settles O25. -/
theorem pollReturnsTheOldestFrame : Obligations.PollReturnsTheOldestFrame := fun _ _ _ hv =>
  ⟨fun hc =>
    ⟨fun hempty => (exec_poll_iff hv _).mpr ⟨hc, .inl ⟨hempty, rfl⟩⟩,
      fun f rest hq => (exec_poll_iff hv _).mpr ⟨hc, .inr ⟨f, rest, hq, rfl⟩⟩⟩,
    fun hc => ⟨_, exec_poll_of_unconfigured hv hc⟩⟩

/-- Settles O26: the filter on the frame is the filter on the buffer that holds it. -/
theorem pushAppendsAtTheBack : Obligations.PushAppendsAtTheBack := by
  intro s x f v hv hfull hf hacc hroom
  have haccepts : accepts v = true := by rw [← frameAccepted_raw s.cfg v, ← hf, hacc]
  exact (exec_push_iff hv f _).mpr ⟨⟨hfull, haccepts, (queueHasRoom_iff v).mpr hroom, hf⟩, rfl⟩

end Sys2Proof
end

section
/-! PROOFS. Time, the link, line faults: when `TICK` runs and what it makes of each device, `LINK_RESOLVE` by the number of
drivers, and the line faults at one device (rules R258, R262, R270, R271, R273, R276). -/

namespace Sys2Proof.Machine

/-! Time -/

/-- No transmitter operation is enabled, phase by phase (rules R193 to R198). -/
theorem txEnabled_eq_false_iff (c : Params) (v : Device) :
    txEnabled c v = false ↔
      v.tx_phase ≠ .load ∧ (v.tx_phase = .setup ∨ v.tx_phase = .high ∨ v.tx_phase = .framehold → v.tx_wait ≠ 0) ∧
        (v.tx_phase = .low → v.tx_index < c.N → v.tx_wait ≠ 0) := by
  cases hp : v.tx_phase with
  | low =>
    simp [txEnabled, hp]
    omega
  | _ => simp [txEnabled, hp]

/-- What rule R258 (b) asks of a device before time may pass. -/
theorem letsTimePass_iff (c : Params) (v : Device) :
    letsTimePass c v = true ↔
      v.edge_pending = none ∧ v.reasm_wait < v.params.t_reasm ∧ v.tx_phase ≠ .load ∧
        (v.tx_phase = .setup ∨ v.tx_phase = .high ∨ v.tx_phase = .framehold → v.tx_wait ≠ 0) ∧
        (v.tx_phase = .low → v.tx_index < c.N → v.tx_wait ≠ 0) := by
  rw [← txEnabled_eq_false_iff]
  simp only [letsTimePass, Bool.and_eq_true, Option.isNone_iff_eq_none, Bool.not_eq_true', decide_eq_true_eq]
  rw [and_assoc, and_comm (a := txEnabled c v = false)]

theorem exists_exec_tick_iff (s : State) :
    (∃ t, exec .tick s = .next t) ↔ ∀ v ∈ s.devs, letsTimePass s.cfg v = true := by
  rw [← List.all_eq_true]
  exact ⟨fun ⟨t, ht⟩ => ((execTick_eq_next s t).mp ht).1, fun h => ⟨_, (execTick_eq_next s _).mpr ⟨h, rfl⟩⟩⟩

/-- The wait counts down to 0 and stays there (rule R262). -/
theorem Device.tick_eq (v : Device) :
    v.tick =
      { v with
        tx_wait := if 0 < v.tx_wait then v.tx_wait - 1 else v.tx_wait
        idle_ticks := if v.idle_ticks < v.params.t_abandon then v.idle_ticks + 1 else v.idle_ticks
        reasm_wait := v.reasm_wait + 1 } := by
  have hwait : v.tx_wait - 1 = if 0 < v.tx_wait then v.tx_wait - 1 else v.tx_wait := by
    split <;> omega
  rw [← hwait]
  rfl

/-! The link -/

/-- `LINK_RESOLVE` goes on or names the contention (rules R270, R273). -/
theorem resolveLink_next_or_refused (s : State) :
    (∃ t, resolveLink s = .next t) ∨ resolveLink s = .refused .linkContention := by
  unfold resolveLink
  split
  · exact .inl ⟨_, rfl⟩
  · exact .inl ⟨_, rfl⟩
  · exact .inr rfl

/-- The lines of a link that resolves have one driver at most (rule R273). -/
theorem driver_unique_of_resolveLink (s t : State) (x y : Nat) (v w : Device) (h : resolveLink s = .next t)
    (hv : s.devs[x]? = some v) (hw : s.devs[y]? = some w) (hpv : v.pin_dir = .output) (hpw : w.pin_dir = .output) :
    x = y := by
  obtain ⟨-, hdrives⟩ := resolveLink_frame s t h
  have hsafe : LinkSafe { s with line_strobe := t.line_strobe } :=
    (resolveLink_linkSafe s t h).of_drives_eq rfl hdrives.symm
  exact hsafe.one_driver x y v w hv hw hpv hpw

theorem resolveLink_of_two_drivers (s : State) (x y : Nat) (v w : Device) (hv : s.devs[x]? = some v)
    (hw : s.devs[y]? = some w) (hne : x ≠ y) (hpv : v.pin_dir = .output) (hpw : w.pin_dir = .output) :
    resolveLink s = .refused .linkContention := by
  rcases resolveLink_next_or_refused s with ⟨t, ht⟩ | hr
  · exact absurd (driver_unique_of_resolveLink s t x y v w ht hv hw hpv hpw) hne
  · exact hr

theorem driveLines_devs_length (s : State) (strobe data : Bool) : (driveLines s strobe data).devs.length = s.devs.length := by
  rw [driveLines_devs]
  split
  · rw [List.length_map]
  · rfl

/-- A device that drives the lines gets no edge (rule R270). -/
theorem driveLines_getElem?_of_output (s : State) (strobe data : Bool) (x : Nat) (v : Device) (hv : s.devs[x]? = some v)
    (hp : v.pin_dir = .output) : (driveLines s strobe data).devs[x]? = some v := by
  have hkeep : deliverEdge data v = v := if_neg (by simp [hp])
  rw [driveLines_getElem?, hv, Option.map_some, hkeep, ite_self]

/-- A listening device gets the edge of a rise (rule R270). -/
theorem driveLines_getElem?_of_input (s : State) (strobe data : Bool) (y : Nat) (w : Device) (hw : s.devs[y]? = some w)
    (hp : w.pin_dir = .input) :
    (driveLines s strobe data).devs[y]? =
      some (if s.line_strobe = false ∧ strobe = true then { w with edge_pending := some data } else w) := by
  rw [driveLines_getElem?, hw, Option.map_some, deliverEdge, if_pos hp]
  simp only [Bool.and_eq_true, Bool.not_eq_true']

/-! Line faults -/

/-- With `LINE_FAULTS` none the environment can do nothing (rule R276). -/
theorem applyLineFault_of_disabled (s : State) (x : Nat) (v : Device) (e : LineFault) (hv : s.devs[x]? = some v)
    (hoff : s.cfg.line_faults = false) : applyLineFault x e s = .refused .noSuchFault :=
  (onDev_some s x _ v hv).trans (if_neg (by simp [hoff]))

end Sys2Proof.Machine

namespace Sys2Proof
open Machine

/-- Settles O34. -/
theorem tickAdvancesTheTimers : Obligations.TickAdvancesTheTimers := by
  intro s
  refine ⟨?_, fun t ht => ?_⟩
  · simp only [exists_exec_tick_iff, letsTimePass_iff]
  · obtain ⟨-, rfl⟩ := (execTick_eq_next s t).mp ht
    refine ⟨rfl, List.length_map .., fun x v hv => ?_⟩
    rw [List.getElem?_map, hv, Option.map_some, Device.tick_eq]

/-- Settles O35. -/
theorem linkResolveByDrivers : Obligations.LinkResolveByDrivers := by
  refine fun s => ⟨fun hin => ?_, fun x v hv hp ho => ?_, fun x y v w hv hw hne hpv hpw => ?_⟩
  · exact (resolveLink_of_no_driver s hin).trans (congrArg _ (driveLines_low _ _))
  · refine ⟨(driveLines s v.strobe_out v.data_out).devs, ?_, ?_, ?_, fun y w hy hw => ?_⟩
    · exact resolveLink_of_driver s x v hv hp ((otherDrives_eq_false s x).mpr ho)
    · exact driveLines_getElem?_of_output s _ _ x v hv hp
    · exact driveLines_devs_length s _ _
    · exact driveLines_getElem?_of_input s _ _ y w hw (ho y w hy hw)
  · exact ⟨_, resolveLink_of_two_drivers s x y v w hv hw hne hpv hpw⟩

/-- Settles O37: the guard and the three faults are those of `applyLineFault_eq_next`. -/
theorem lineFaultsOnlyTouchTheEdge : Obligations.LineFaultsOnlyTouchTheEdge := by
  intro s x v hv
  refine ⟨fun hoff e => ⟨_, applyLineFault_of_disabled s x v e hv hoff⟩, fun hon hp => ⟨fun he d => ?_, fun d he => ⟨?_, ?_⟩⟩,
    fun e t ht => ?_⟩
  · exact (applyLineFault_eq_next x _ s _).mpr ⟨v, hv, ⟨hon, hp⟩, .inl ⟨d, rfl, he, rfl⟩⟩
  · exact (applyLineFault_eq_next x _ s _).mpr ⟨v, hv, ⟨hon, hp⟩, .inr (.inl ⟨d, rfl, he, rfl⟩)⟩
  · exact (applyLineFault_eq_next x _ s _).mpr ⟨v, hv, ⟨hon, hp⟩, .inr (.inr ⟨d, rfl, he, rfl⟩)⟩
  · obtain ⟨u, hu, ⟨hon, hp⟩, hcase⟩ := (applyLineFault_eq_next x e s t).mp ht
    cases hv.symm.trans hu
    obtain ⟨d, -, -, rfl⟩ | ⟨d, -, -, rfl⟩ | ⟨d, -, -, rfl⟩ := hcase
    all_goals exact ⟨hon, hp, _, rfl⟩

end Sys2Proof
end

section
/-! PROOFS. Operations of the host that never fault, and when they are refused (rules R15, R257, R273, R305; log entry 13). -/

namespace Sys2Proof.Machine

/-- The outcome is a next state or a refusal (rule R15). -/
def NeverFaults (o : Out) : Prop := ∀ e, o ≠ .fault e

theorem NeverFaults.next (t : State) : NeverFaults (.next t) := fun _ => by simp

theorem NeverFaults.refused (r : Refusal) : NeverFaults (.refused r) := fun _ => by simp

theorem NeverFaults.ite {p : Prop} [Decidable p] {o o' : Out} (h : NeverFaults o) (h' : NeverFaults o') :
    NeverFaults (if p then o else o') := by
  split
  · exact h
  · exact h'

theorem NeverFaults.onDev {s : State} {x : Nat} {k : Device → Out} (h : ∀ v, NeverFaults (k v)) :
    NeverFaults (onDev s x k) := by
  unfold Machine.onDev
  split
  · exact h _
  · exact .refused _

/-- What never faults is refused where it does not go on. -/
theorem NeverFaults.refused_iff {o : Out} (h : NeverFaults o) : (∃ r, o = .refused r) ↔ ¬∃ t, o = .next t := by
  cases o with
  | next t => simp
  | fault e => exact absurd rfl (h e)
  | refused r => simp

theorem neverFaults_resolveLink (s : State) : NeverFaults (resolveLink s) := by
  rcases resolveLink_next_or_refused s with ⟨t, h⟩ | h
  · exact h ▸ .next t
  · exact h ▸ .refused _

theorem neverFaults_beginTransmit (s : State) (x : Nat) (f : Frame) : NeverFaults (beginTransmit s x f) :=
  .onDev fun _ => .ite (.refused _) (.ite (.refused _) (.ite (.refused _) (neverFaults_resolveLink _)))

theorem neverFaults_configure (s : State) (x : Nat) (id : Address) : NeverFaults (exec (.configure x id) s) :=
  .onDev fun _ => .ite (.next _) (.refused _)

theorem neverFaults_send (s : State) (x : Nat) (path : List Byte) (kind : Byte) (val : BitVec 64) :
    NeverFaults (exec (.send x path kind val) s) :=
  .onDev fun _ => .ite (.refused _) (.ite (.refused _) (.ite (.refused _) (.ite (.refused _)
    (neverFaults_beginTransmit _ _ _))))

theorem neverFaults_sendRequest (s : State) (x : Nat) (target : Address) :
    NeverFaults (exec (.sendRequest x target) s) :=
  .onDev fun _ => .ite (.refused _) (.ite (.refused _) (neverFaults_beginTransmit _ _ _))

theorem neverFaults_poll (s : State) (x : Nat) : NeverFaults (exec (.poll x) s) := by
  refine .onDev fun v => .ite (.refused _) ?_
  cases v.queue with
  | nil => exact .next _
  | cons f rest => exact .next _

theorem neverFaults_txBegin (s : State) (x : Nat) (f : Frame) : NeverFaults (exec (.txBegin x f) s) :=
  .ite (neverFaults_beginTransmit s x f) (.refused _)

theorem not_receiving_iff (v : Device) : ¬v.mode = .receiving ↔ v.mode = .transmitting := by
  cases v.mode <;> simp

/-- Another device drives the lines: what rule R273 calls contention, for a device about to transmit. -/
abbrev AnotherDrives (s : State) (x : Nat) : Prop := ∃ y w, y ≠ x ∧ s.devs[y]? = some w ∧ w.pin_dir = .output

theorem not_othersListen_iff (s : State) (x : Nat) : ¬OthersListen s x ↔ AnotherDrives s x := by
  rw [OthersListen, ← otherDrives_eq_false, Bool.not_eq_false, otherDrives_iff]

section
variable {s : State} {x : Nat} {v : Device} (hv : s.devs[x]? = some v)
include hv

theorem configure_refused_iff (id : Address) :
    (∃ r, exec (.configure x id) s = .refused r) ↔ v.mode = .transmitting := by
  simp only [(neverFaults_configure s x id).refused_iff, exec_configure_iff hv, exists_and_left, exists_eq, and_true,
    not_receiving_iff]

theorem poll_refused_iff : (∃ r, exec (.poll x) s = .refused r) ↔ v.configured = false := by
  rw [(neverFaults_poll s x).refused_iff, ← Bool.not_eq_true]
  refine not_congr ⟨fun ⟨t, ht⟩ => ((exec_poll_iff hv t).mp ht).1, fun hc => ?_⟩
  cases hq : v.queue with
  | nil => exact ⟨_, (exec_poll_iff hv _).mpr ⟨hc, .inl ⟨hq, rfl⟩⟩⟩
  | cons f rest => exact ⟨_, (exec_poll_iff hv _).mpr ⟨hc, .inr ⟨f, rest, hq, rfl⟩⟩⟩

theorem exists_beginTransmit_iff (f : Frame) :
    (∃ t, beginTransmit s x f = .next t) ↔
      v.configured = true ∧ v.mode = .receiving ∧ v.tx_phase = .off ∧ OthersListen s x := by
  constructor
  · rintro ⟨t, ht⟩
    obtain ⟨u, hu, hc, hm, hp, ho, -⟩ := (beginTransmit_eq_next s t x f).mp ht
    cases hv.symm.trans hu
    exact ⟨hc, hm, hp, (otherDrives_eq_false s x).mp ho⟩
  · rintro ⟨hc, hm, hp, ho⟩
    obtain ⟨t, -, ht, -⟩ := exists_beginTransmit hv f hc hm hp ho
    exact ⟨t, ht⟩

/-- While clause (d) of rule R59 holds, the phase refuses nothing that the mode does not refuse. -/
theorem not_exists_beginTransmit_iff (hoff : v.mode = .receiving → v.tx_phase = .off) (f : Frame) :
    (¬∃ t, beginTransmit s x f = .next t) ↔
      v.configured = false ∨ v.mode = .transmitting ∨ AnotherDrives s x := by
  have hphase : v.mode = .receiving ∧ v.tx_phase = .off ∧ OthersListen s x ↔ v.mode = .receiving ∧ OthersListen s x :=
    and_congr_right fun hm => and_iff_right (hoff hm)
  rw [exists_beginTransmit_iff hv, hphase, Classical.not_and_iff_not_or_not, Classical.not_and_iff_not_or_not,
    Bool.not_eq_true, not_receiving_iff, not_othersListen_iff]

theorem sendRequest_refused_iff (hoff : v.mode = .receiving → v.tx_phase = .off) (target : Address) :
    (∃ r, exec (.sendRequest x target) s = .refused r) ↔
      v.configured = false ∨ v.mode = .transmitting ∨ AnotherDrives s x := by
  have hnext := exists_congr fun t => execSendRequest_eq_next x target s t
  exact (neverFaults_sendRequest s x target).refused_iff.trans
    ((not_congr hnext).trans (not_exists_beginTransmit_iff hv hoff _))

theorem send_refused_iff (hoff : v.mode = .receiving → v.tx_phase = .off) (path : List Byte) (kind : Byte)
    (val : BitVec 64) :
    (∃ r, exec (.send x path kind val) s = .refused r) ↔
      v.configured = false ∨ v.mode = .transmitting ∨ (0 : Byte) ∈ path ∨
        ¬(kind = 2 ∨ kind = 3 ∨ kind = 4 ∨ kind = 5) ∨ AnotherDrives s x := by
  have reorder : ∀ p k c m d : Prop, p ∨ k ∨ c ∨ m ∨ d ↔ c ∨ m ∨ p ∨ k ∨ d := by
    intro p k c m d
    rw [← or_assoc (a := p) (b := k), or_left_comm (a := p ∨ k) (b := c), or_left_comm (a := p ∨ k) (b := m), or_assoc]
  have hnext : (∃ t, exec (.send x path kind val) s = .next t) ↔
      noZeroByte path = true ∧ isValueKind kind = true ∧
        ∃ t, beginTransmit s x (encodeDataFrame s.cfg kind path val) = .next t :=
    (exists_congr fun t => execSend_eq_next x path kind val s t).trans (by simp only [exists_and_left])
  rw [(neverFaults_send s x path kind val).refused_iff, hnext, Classical.not_and_iff_not_or_not,
    Classical.not_and_iff_not_or_not, not_exists_beginTransmit_iff hv hoff, Bool.not_eq_true, noZeroByte_eq_false_iff, isValueKind_iff]
  exact reorder _ _ _ _ _

end

/-- Contention refuses `TX_BEGIN` of any frame (rules R257, R273). -/
theorem txBegin_refused_of_anotherDrives (s : State) (x : Nat) (f : Frame) (h : AnotherDrives s x) :
    ∃ r, exec (.txBegin x f) s = .refused r := by
  refine (neverFaults_txBegin s x f).refused_iff.mpr fun ⟨t, ht⟩ => ?_
  obtain ⟨-, hbegin⟩ := (execTxBegin_eq_next x f s t).mp ht
  obtain ⟨v, -, -, -, -, ho, -⟩ := (beginTransmit_eq_next s t x f).mp hbegin
  exact absurd ((otherDrives_iff s x).mpr h) (by simp [ho])

end Sys2Proof.Machine

namespace Sys2Proof
open Machine

/-- Settles O27: no host operation faults, so each is refused exactly where it has no next state. -/
theorem hostRefusalsAreExactlyTheListed : Obligations.HostRefusalsAreExactlyTheListed := by
  intro s x v hv hoff
  refine ⟨configure_refused_iff hv, poll_refused_iff hv, sendRequest_refused_iff hv hoff, send_refused_iff hv hoff,
    fun h f _ => txBegin_refused_of_anotherDrives s x f h, ?_⟩
  rintro _ (rfl | ⟨id, rfl⟩ | ⟨target, rfl⟩ | ⟨path, kind, val, rfl⟩)
  · exact neverFaults_poll s x
  · exact neverFaults_configure s x id
  · exact neverFaults_sendRequest s x target
  · exact neverFaults_send s x path kind val

end Sys2Proof
end

section
/-! PROOFS. What goes before a scheduled turn: a pending edge before the other operations of its device, and before `TICK` the
first pending edge of the link (rule R258; log entries 5, 6 and 27). -/

namespace Sys2Proof.Machine

/-- What a turn asks for does not depend on the schedule. -/
@[simp] theorem fetchTurn_afterFetch (s : State) (t : Turn) : fetchTurn (afterFetch s) t = fetchTurn s t := by
  cases t <;> rfl

theorem fetch_of_chooseTurn (s : State) (t : Turn) (rest : List Turn) (h : chooseTurn s = (t, rest)) :
    fetch s = fetchTurn s t := by
  rw [fetch, h, fetchTurn_afterFetch]

theorem edgeWaits_of_pending (s : State) (x : Nat) (v : Device) (hv : s.devs[x]? = some v)
    (he : v.edge_pending.isSome = true) : edgeWaits s x = true := by
  simp only [edgeWaits, hv, he]

/-- Rule R258 (a). -/
theorem preemptingTurn_of_edgeWaits (s : State) (fmt : Format) (x : Nat) (code : Byte) (args : List Byte)
    (he : edgeWaits s x = true) (hsamp : fmt ≠ .samp) (henv : fmt ≠ .env) :
    preemptingTurn s (.op fmt x code args) = some (edgeTurn x) := by
  cases fmt with
  | samp => exact absurd rfl hsamp
  | env => exact absurd rfl henv
  | kind | rvec | txph | hcmd | func => exact if_pos he

theorem preemptingTurn_tickTurn (s : State) : preemptingTurn s tickTurn = urgentTurn s := rfl

/-- Rule R258 (b): of all that is urgent a pending edge comes first. -/
theorem urgentTurn_of_pending (s : State) (v : Device) (hv : v ∈ s.devs) (he : v.edge_pending.isSome = true) :
    ∃ y w, s.devs[y]? = some w ∧ w.edge_pending.isSome = true ∧ urgentTurn s = some (edgeTurn y) := by
  unfold urgentTurn
  split
  · next y hy =>
    obtain ⟨hlt, hw, -⟩ := List.findIdx?_eq_some_iff_getElem.mp hy
    exact ⟨y, s.devs[y], List.getElem?_eq_getElem hlt, hw, rfl⟩
  · next hnone =>
    have hfalse := List.findIdx?_eq_none_iff.mp hnone v hv
    exact absurd (he.symm.trans hfalse) (by decide)

end Sys2Proof.Machine

namespace Sys2Proof
open Machine

/-- Settles O40: a scheduled operation of the device is preempted by its edge; a `TICK`, scheduled or not, by the urgent turn,
which is the edge of some device. -/
theorem pendingEdgeGoesFirst : Obligations.PendingEdgeGoesFirst := by
  intro s x v hv he
  refine ⟨fun fmt code args rest hs hsamp henv => ?_, fun hs => ?_⟩
  · have hpre := preemptingTurn_of_edgeWaits s fmt x code args (edgeWaits_of_pending s x v hv he) hsamp henv
    have hchoose := chooseTurn_of_preempted s _ _ rest hs hpre
    exact ⟨fetch_of_chooseTurn s _ _ hchoose, congrArg Prod.snd hchoose⟩
  · obtain ⟨y, w, hw, hpending, hurgent⟩ := urgentTurn_of_pending s v (List.mem_of_getElem? hv) he
    refine ⟨y, w, hw, hpending, ?_⟩
    rcases hs with ⟨rest, hs⟩ | hs
    · have hpre := (preemptingTurn_tickTurn s).trans hurgent
      exact fetch_of_chooseTurn s _ _ (chooseTurn_of_preempted s tickTurn _ rest hs hpre)
    · have hchoose := chooseTurn_of_sched_nil s hs
      rw [hurgent] at hchoose
      exact fetch_of_chooseTurn s _ _ hchoose

end Sys2Proof
end

section
/-! PROOFS. What an operation reports: nothing, or one outcome in front of those before it (rules R250, R258 (d); log entry
14). -/

namespace Sys2Proof.Machine

/-- Between the two states at most one outcome was recorded, and none taken back. -/
inductive ReportsAtMostOne (s t : State) : Prop
  | kept (h : t.reports = s.reports)
  | added (r : Report) (h : t.reports = r :: s.reports)

theorem ReportsAtMostOne.of_resolveLink (s s' t : State) (hr : resolveLink s' = .next t) (h : ReportsAtMostOne s s') :
    ReportsAtMostOne s t := by
  have hrep : t.reports = s'.reports := by
    rcases (resolveLink_eq_next s' t).mp hr with ⟨-, rfl⟩ | ⟨a, -, rfl⟩ <;> rfl
  cases h with
  | kept h => exact .kept (hrep.trans h)
  | added r h => exact .added r (hrep.trans h)

theorem ReportsAtMostOne.of_resolve_setDev (s t : State) (x : Nat) (w : Device)
    (hr : resolveLink (s.setDev x w) = .next t) : ReportsAtMostOne s t :=
  .of_resolveLink s (s.setDev x w) t hr (.kept rfl)

/-- `TX_BEGIN` drops what was being received (rule R192). -/
theorem ReportsAtMostOne.of_beginTransmit (s t : State) (x : Nat) (f : Frame) (h : beginTransmit s x f = .next t) :
    ReportsAtMostOne s t := by
  obtain ⟨v, -, -, -, -, -, rfl⟩ := (beginTransmit_eq_next s t x f).mp h
  rw [begun_state_eq]
  by_cases hb : v.bit_offset = 0
  · exact .kept (if_pos hb)
  · exact .added _ (if_neg hb)

/-- `REASM_ACCEPT` drops the frame that finds no room (rule R174). -/
theorem ReportsAtMostOne.of_acceptFrame (s : State) (x : Nat) (v : Device) : ReportsAtMostOne s (acceptFrame s x v) := by
  rw [acceptFrame_eq]
  split
  · exact .kept rfl
  · exact .added _ rfl

theorem ReportsAtMostOne.of_reportReading (s t : State) (x : Nat) (path : List Byte) (w : View)
    (h : reportReading s x path w = .next t) : ReportsAtMostOne s t := by
  obtain ⟨-, -, rfl⟩ := (reportReading_eq_next s t x path w).mp h
  exact .added _ rfl

theorem ReportsAtMostOne.of_waitInPhase (s t : State) (x : Nat) (p : TxPhase) (h : waitInPhase x p s = .next t) :
    ReportsAtMostOne s t := by
  obtain ⟨_, -, -, rfl⟩ := (waitInPhase_eq_next s t x p).mp h
  exact .kept rfl

theorem exec_reportsAtMostOne (i : Instr) (s t : State) (h : exec i s = .next t) : ReportsAtMostOne s t := by
  cases i with
  | kindUnknown x r p val | kindRequestOnly x r p val | kindFloat x r p val | kindDouble x r p val
  | kindInt64 x r p val | kindUint64 x r p val => exact .of_reportReading s t x p _ h
  | kindReserved6 x b r p val | kindReserved8 x b r p val | kindReserved16 x b r p val | kindReserved32 x b r p val
  | kindReserved64 x b r p val | kindReserved128 x b r p val => exact .of_reportReading s t x p _ h
  | sample x d =>
    obtain ⟨_, -, -, rfl⟩ := (execSample_eq_next x d s t).mp h
    exact .kept rfl
  | edgeOverrun x d =>
    obtain ⟨_, -, -, rfl⟩ := (execEdgeOverrun_eq_next x d s t).mp h
    exact .added _ rfl
  | edgeMasked x d =>
    obtain ⟨_, -, -, rfl⟩ := (execEdgeMasked_eq_next x d s t).mp h
    exact .kept rfl
  | noedgeLow x =>
    obtain ⟨_, -, rfl⟩ := (execNoedgeLow_eq_next x s t).mp h
    exact .kept rfl
  | noedgeFall x =>
    obtain ⟨_, -, rfl⟩ := (execNoedgeFall_eq_next x s t).mp h
    exact .kept rfl
  | noedgeHigh x =>
    obtain ⟨_, -, rfl⟩ := (execNoedgeHigh_eq_next x s t).mp h
    exact .kept rfl
  | reasmAcceptSelf x =>
    obtain ⟨v, -, -, rfl⟩ := (execReasmAcceptSelf_eq_next x s t).mp h
    exact .of_acceptFrame s x v
  | reasmAcceptCoord x =>
    obtain ⟨v, -, -, rfl⟩ := (execReasmAcceptCoord_eq_next x s t).mp h
    exact .of_acceptFrame s x v
  | reasmReject x =>
    obtain ⟨_, -, -, rfl⟩ := (execReasmReject_eq_next x s t).mp h
    exact .added _ rfl
  | reasmAbandon x =>
    obtain ⟨_, -, -, rfl⟩ := (execReasmAbandon_eq_next x s t).mp h
    exact .added _ rfl
  | reasmNop x =>
    obtain ⟨_, -, -, rfl⟩ := (execReasmNop_eq_next x s t).mp h
    exact .kept rfl
  | txBegin x f => exact .of_beginTransmit s t x f ((execTxBegin_eq_next x f s t).mp h).2
  | txData x =>
    obtain ⟨_, -, -, -, hr⟩ := (execTxData_eq_next x s t).mp h
    exact .of_resolve_setDev s t x _ hr
  | txRise x =>
    obtain ⟨_, -, -, hr⟩ := (execTxRise_eq_next x s t).mp h
    exact .of_resolve_setDev s t x _ hr
  | txFall x =>
    obtain ⟨_, -, -, hr⟩ := (execTxFall_eq_next x s t).mp h
    exact .of_resolve_setDev s t x _ hr
  | txNext x =>
    obtain ⟨_, -, -, rfl⟩ := (execTxNext_eq_next x s t).mp h
    exact .kept rfl
  | txFramehold x =>
    obtain ⟨_, -, -, rfl⟩ := (execTxFramehold_eq_next x s t).mp h
    exact .kept rfl
  | txEnd x =>
    obtain ⟨_, -, -, hr⟩ := (execTxEnd_eq_next x s t).mp h
    exact .of_resolveLink s _ t hr (.added (.sendReturned x) rfl)
  | txWaitSetup x | txWaitHigh x | txWaitLow x | txWaitFramehold x => exact .of_waitInPhase s t x _ h
  | txUnreachable x =>
    obtain ⟨_, -, -, rfl⟩ := (execTxUnreachable_eq_next x s t).mp h
    exact .kept rfl
  | configure x id =>
    obtain ⟨_, -, -, rfl⟩ := (execConfigure_eq_next x id s t).mp h
    exact .kept rfl
  | send x p k val =>
    obtain ⟨-, -, hb⟩ := (execSend_eq_next x p k val s t).mp h
    exact .of_beginTransmit s t x _ hb
  | sendRequest x a => exact .of_beginTransmit s t x _ ((execSendRequest_eq_next x a s t).mp h)
  | poll x =>
    obtain ⟨_, -, -, ⟨-, rfl⟩ | ⟨_, _, -, rfl⟩⟩ := (execPoll_eq_next x s t).mp h
    · exact .added _ rfl
    · exact .added _ rfl
  | encodeData x k p val =>
    obtain ⟨-, -, -, rfl⟩ := (execEncodeData_eq_next x k p val s t).mp h
    exact .added _ rfl
  | encodeRequest x a =>
    obtain ⟨_, -, rfl⟩ := (execEncodeRequest_eq_next x a s t).mp h
    exact .added _ rfl
  | decodeFrame x f =>
    obtain ⟨_, -, -, rfl⟩ := (execDecodeFrame_eq_next x f s t).mp h
    exact .added _ rfl
  | push x f =>
    obtain ⟨_, -, -, rfl⟩ := (execPush_eq_next x f s t).mp h
    exact .kept rfl
  | tick =>
    obtain ⟨-, rfl⟩ := (execTick_eq_next s t).mp h
    exact .kept rfl
  | linkResolve => exact .of_resolveLink s s t h (.kept rfl)
  | reset x =>
    obtain ⟨_, -, hr⟩ := (execReset_eq_next x s t).mp h
    exact .of_resolve_setDev s t x _ hr

theorem step_reportsAtMostOne (s t : State) (h : step s = .next t) : ReportsAtMostOne (afterFetch s) t := by
  rcases (step_eq_next s t).mp h with ⟨i, -, he⟩ | ⟨x, e, -, he⟩
  · exact exec_reportsAtMostOne i (afterFetch s) t he
  · obtain ⟨v, p, -, rfl⟩ := applyLineFault_update x e (afterFetch s) t he
    exact .kept rfl

end Sys2Proof.Machine

namespace Sys2Proof
open Machine

/-- Settles O54. -/
theorem atMostOneDropInAStep : Obligations.AtMostOneDropInAStep := by
  intro s t h
  cases step_reportsAtMostOne s t h with
  | kept hk => exact .inl hk
  | added r hr => exact .inr ⟨r, hr⟩

end Sys2Proof
end

section
/-! PROOFS. `RESET` and the device before `CONFIGURE`: what is left of the lines when a device lets go of them, and what a device
that is not configured fetches and refuses (rules R59, R270, R271, R290, R292; log entry 28). -/

namespace Sys2Proof.Machine

/-- A strobe that was high, or stays low, delivers no edge (rule R270). -/
theorem driveLines_of_no_rise (s : State) (strobe data : Bool) (h : strobe = true → s.line_strobe = true) :
    driveLines s strobe data =
      { s with strobe_prev := s.line_strobe, line_strobe := strobe, line_data := data } := by
  cases strobe with
  | false => exact driveLines_low s data
  | true => simp [driveLines, h rfl]

/-- Lines that agree with their drivers do not change when a device other than the driver is replaced by one that listens. -/
theorem resolveLink_setDev_of_other_driver {s : State} {x y : Nat} {v w : Device} (u : Device)
    (hv : s.devs[x]? = some v) (hu : u.pin_dir = .input) (hs : LinkSafe s) (hxy : y ≠ x) (hw : s.devs[y]? = some w)
    (hp : w.pin_dir = .output) :
    resolveLink (s.setDev x u) =
      .next
        { s.setDev x u with
          strobe_prev := s.line_strobe, line_strobe := w.strobe_out, line_data := w.data_out } := by
  have hw' : (s.setDev x u).devs[y]? = some w := (setDev_getElem?_ne s x y u hxy).trans hw
  have hlisten : OthersListen (s.setDev x u) y := by
    intro z a hz ha
    rcases setDev_device s x z v u a hv ha with ⟨-, rfl⟩ | ⟨-, ha⟩
    · exact hu
    · exact hs.othersListen y w hw hp z a hz ha
  have hheld : w.strobe_out = true → s.line_strobe = true := 
    (hs.line_strobe_eq y w hw hp).trans
  rw [resolveLink_of_driver _ y w hw' hp ((otherDrives_eq_false _ y).mpr hlisten), driveLines_of_no_rise (s.setDev x u) _ _ hheld]
  rfl

theorem exec_reset_iff {s : State} {x : Nat} {v : Device} (hv : s.devs[x]? = some v) (t : State) :
    exec (.reset x) s = .next t ↔ resolveLink (s.setDev x (Device.initial v.params)) = .next t :=
  (execReset_eq_next x s t).trans (by simp only [hv, Option.some.injEq, exists_eq_left'])

/-- An empty receive buffer gives `REASM` nothing to do (rules R171, R172). -/
theorem reasmCase_of_empty (c : Params) (x : Nat) (v : Device) (h : v.bit_offset = 0) :
    reasmCase c x v = .reasmNop x := by
  have hN := N_pos c
  exact reasmCase_of_nothing_due c x v (by omega) (by omega)

end Sys2Proof.Machine

namespace Sys2Proof
open Machine

/-- Settles O36: no device drives the lines after `RESET`, or the one that does was driving them before, so that no strobe
rises. -/
theorem resetPutsTheDeviceInItsInitialState : Obligations.ResetPutsTheDeviceInItsInitialState := by
  intro s x v hv hs
  by_cases hlisten : OthersListen s x
  · refine ⟨_, (exec_reset_iff hv _).mpr (resolveLink_setDev_of_input hv _ rfl hlisten), rfl, rfl, rfl, rfl, rfl, rfl,
      fun _ => ⟨rfl, rfl, rfl⟩, fun y w hy hw hp => ?_⟩
    exact absurd ((hlisten y w hy hw).symm.trans hp) (by decide)
  · obtain ⟨y, w, hy, hw, hp⟩ := (not_othersListen_iff s x).mp hlisten
    refine ⟨_, (exec_reset_iff hv _).mpr (resolveLink_setDev_of_other_driver _ hv rfl hs hy hw hp), rfl, rfl, rfl, rfl, rfl,
      rfl, fun h => absurd h hlisten, fun z u hz hu hpu => ?_⟩
    obtain rfl := hs.one_driver z y u w hu hw hpu hp
    cases hw.symm.trans hu
    exact ⟨rfl, rfl, rfl⟩

/-- Settles O55: clause (f) of rule R59 says that reception is off and the receive buffer empty. -/
theorem unconfiguredDeviceIsInert : Obligations.UnconfiguredDeviceIsInert := by
  intro s x v hv hc hsafe
  obtain ⟨hrx, hempty, -⟩ := hsafe.unconfigured hc
  have hoff : v.mode = .receiving → v.tx_phase = .off := fun hm => (hsafe.receiving hm).2.1
  refine ⟨fun d he => ?_, ?_, fun path kind val => ?_, fun target => ?_, ?_⟩
  · rw [fetchTurn_of_edge hv d he, edgeCase_of_masked s.cfg x v d hrx]
  · rw [fetchTurn_reasmTurn hv, reasmCase_of_empty s.cfg x v hempty]
  · exact (send_refused_iff hv hoff path kind val).mpr (.inl hc)
  · exact (sendRequest_refused_iff hv hoff target).mpr (.inl hc)
  · exact (poll_refused_iff hv).mpr hc

end Sys2Proof
end

section
/-! PROOFS. Progress: with nothing scheduled the next step runs what is urgent, and else `TICK`; what is urgent answers, and only
finitely many operations are due before `TICK` (rules R258, R262, R318; log entry 5). -/

namespace Sys2Proof.Machine

/-! The operations that are due before time may pass. -/

/-- The operations the transmitter of a device can still run before it has to wait, when every per-bit hold takes time (rules
R112, R193 to R198). -/
def txOpsDue (v : Device) : Nat :=
  match v.tx_phase with
  | .load => 1
  | .setup => if v.tx_wait = 0 then 2 else 0
  | .high => if v.tx_wait = 0 then 1 else 0
  | .low => if v.tx_wait = 0 then 2 else 0
  | .framehold => if v.tx_wait = 0 then 1 else 0
  | .off | .code6 | .code7 => 0

/-- The operations that the receiver of a device has to run before time may pass: its pending edge and its overdue `REASM` (rule
R258 (b)). -/
def rxOpsDue (v : Device) : Nat :=
  (if v.edge_pending.isSome then 1 else 0) + if v.params.t_reasm ≤ v.reasm_wait then 1 else 0

/-- The operations of a transmitter that is not `OFF` (rules R193 to R198), at device `x`. -/
inductive IsTxOp (x : Nat) : Instr → Prop
  | data : IsTxOp x (.txData x)
  | rise : IsTxOp x (.txRise x)
  | fall : IsTxOp x (.txFall x)
  | next : IsTxOp x (.txNext x)
  | framehold : IsTxOp x (.txFramehold x)
  | finish : IsTxOp x (.txEnd x)

theorem IsTxOp.frame {x : Nat} {i : Instr} (h : IsTxOp x i) : i.dev = x ∧ i ≠ .tick ∧ i ≠ .linkResolve := by
  cases h <;> exact ⟨rfl, by simp, by simp⟩

theorem txOpsDue_of_waiting (v : Device) (hp : v.tx_phase ≠ .load) (hw : v.tx_wait ≠ 0) : txOpsDue v = 0 := by
  cases h : v.tx_phase with
  | load => exact absurd h hp
  | _ => simp [txOpsDue, h, hw]

theorem txOpsDue_le_one (v : Device) (hp : v.tx_phase = .high ∨ v.tx_phase = .framehold) : txOpsDue v ≤ 1 := by
  rcases hp with hp | hp
  all_goals
    simp only [txOpsDue, hp]
    split <;> omega

/-- A transmitter operation starts a wait of a per-bit hold, or goes to a phase from which fewer operations lead to one. -/
theorem IsTxOp.txOpsDue_lt {c : Params} {x : Nat} {v u : Device} {i : Instr} (h : IsTxOp x i) (hhold : 1 ≤ c.t_bit_hold)
    (he : deviceEffect c i v u) : txOpsDue u < txOpsDue v := by
  have hpos : c.t_bit_hold ≠ 0 := Nat.ne_of_gt hhold
  cases h with
  | data =>
    obtain ⟨⟨hp, -⟩, rfl⟩ := he
    rw [txOpsDue_of_waiting _ (by simp) hpos]
    simp [txOpsDue, hp]
  | rise =>
    obtain ⟨⟨hp, hw⟩, rfl⟩ := he
    exact Nat.lt_of_le_of_lt (txOpsDue_le_one _ (.inl rfl)) (by simp [txOpsDue, hp, hw])
  | fall =>
    obtain ⟨⟨hp, hw⟩, rfl⟩ := he
    rw [txOpsDue_of_waiting _ (by simp) hpos]
    simp [txOpsDue, hp, hw]
  | next =>
    obtain ⟨⟨hp, hw, -⟩, rfl⟩ := he
    simp [txOpsDue, hp, hw]
  | framehold =>
    obtain ⟨⟨hp, hw, -⟩, rfl⟩ := he
    exact Nat.lt_of_le_of_lt (txOpsDue_le_one _ (.inr rfl)) (by simp [txOpsDue, hp, hw])
  | finish =>
    obtain ⟨⟨hp, hw⟩, rfl⟩ := he
    simp [txOpsDue, hp, hw]

/-- What all devices of the link count for. -/
def total (f : Device → Nat) (l : List Device) : Nat := (l.map f).sum

/-- The transmitters come first: a `TX_RISE` makes an edge pending at every listening device. -/
def opsDue (s : State) : Nat × Nat := (total txOpsDue s.devs, total rxOpsDue s.devs)

/-- No device of `l'` counts for more than the device of its number in `l`. -/
def CountsNoMore (f : Device → Nat) (l l' : List Device) : Prop :=
  l'.length = l.length ∧ ∀ (y : Nat) (v w : Device), l[y]? = some v → l'[y]? = some w → f w ≤ f v

section
variable {f : Device → Nat} {v w : Device} {l l' : List Device}

theorem total_cons (f : Device → Nat) (v : Device) (l : List Device) : total f (v :: l) = f v + total f l := by
  simp only [total, List.map_cons, List.sum_cons]

theorem CountsNoMore.cons (h : CountsNoMore f (v :: l) (w :: l')) : f w ≤ f v ∧ CountsNoMore f l l' := by
  obtain ⟨hlen, hle⟩ := h
  exact ⟨hle 0 v w rfl rfl, Nat.succ.inj hlen, fun y => hle (y + 1)⟩

theorem CountsNoMore.total_le (h : CountsNoMore f l l') : total f l' ≤ total f l := by
  induction l generalizing l' with
  | nil =>
    obtain rfl := List.eq_nil_of_length_eq_zero h.1
    exact Nat.le_refl _
  | cons v l ih =>
    cases l' with
    | nil => exact Nat.zero_le _
    | cons w l' =>
      obtain ⟨hhead, htail⟩ := h.cons
      rw [total_cons, total_cons]
      exact Nat.add_le_add hhead (ih htail)

/-- One device that counts for less makes the sum smaller. -/
theorem CountsNoMore.total_lt (h : CountsNoMore f l l') {x : Nat} {a b : Device} (ha : l[x]? = some a)
    (hb : l'[x]? = some b) (hlt : f b < f a) : total f l' < total f l := by
  induction l generalizing l' x with
  | nil => cases ha
  | cons v l ih =>
    cases l' with
    | nil => cases hb
    | cons w l' =>
      obtain ⟨hhead, htail⟩ := h.cons
      rw [total_cons, total_cons]
      cases x with
      | zero =>
        cases ha
        cases hb
        exact Nat.add_lt_add_of_lt_of_le hlt htail.total_le
      | succ x => exact Nat.add_lt_add_of_le_of_lt hhead (ih htail ha hb)

end

/-- One device of the link was replaced. -/
theorem CountsNoMore.of_set {f : Device → Nat} {s t : State} {x : Nat} {v w : Device} (hv : s.devs[x]? = some v)
    (hd : t.devs = s.devs.set x w) (hle : f w ≤ f v) : CountsNoMore f s.devs t.devs := by
  refine ⟨by rw [hd, List.length_set], fun y v' w' hv' hw' => ?_⟩
  rw [hd] at hw'
  rcases setDev_device s x y v w w' hv hw' with ⟨rfl, rfl⟩ | ⟨-, hw'⟩
  · cases hv.symm.trans hv'
    exact hle
  · cases hv'.symm.trans hw'
    exact Nat.le_refl _

/-- From `s` to `t` no time passed and no turn was scheduled, and fewer operations are due before time may pass. -/
structure CloserToTick (s t : State) : Prop where
  sched : t.sched = s.sched
  now : t.now = s.now
  due : Prod.Lex (· < ·) (· < ·) (opsDue t) (opsDue s)

section
variable {s t : State} {x : Nat} {v : Device} (hv : s.devs[x]? = some v)
include hv

/-- An operation that the receiver of `x` owed. -/
theorem CloserToTick.of_set {w : Device} (hsched : t.sched = s.sched) (hnow : t.now = s.now)
    (hd : t.devs = s.devs.set x w) (htx : txOpsDue w = txOpsDue v) (hrx : rxOpsDue w < rxOpsDue v) :
    CloserToTick s t where
  sched := hsched
  now := hnow
  due := by
    have hw : t.devs[x]? = some w := hd ▸ setDev_getElem?_self s x v w hv
    have htx_le := (CountsNoMore.of_set hv hd (Nat.le_of_eq htx)).total_le
    have hrx_lt := (CountsNoMore.of_set hv hd (Nat.le_of_lt hrx)).total_lt hv hw hrx
    exact Prod.lex_def.mpr ((Nat.lt_or_eq_of_le htx_le).imp_right fun heq => ⟨heq, hrx_lt⟩)

/-- A transmitter operation of `x`, whatever edges it delivers. -/
theorem CloserToTick.of_txOp {i : Instr} (hop : IsTxOp x i) (hexec : exec i s = .next t) (hsched : t.sched = s.sched)
    (hhold : 1 ≤ s.cfg.t_bit_hold) : CloserToTick s t := by
  obtain ⟨hdev, htick, hresolve⟩ := hop.frame
  obtain ⟨-, hlen⟩ := (exec_linkEffect i s t hexec).frame
  have hself : ∀ w, t.devs[x]? = some w → txOpsDue w < txOpsDue v := by
    intro w hw
    obtain ⟨u, ⟨-, heffect⟩ | ⟨hne, -⟩, hedge⟩ := exec_device i s t x v w hexec hv hw
    · obtain ⟨p, rfl⟩ := edgeDelivered_update s t u w hedge
      have hlt := hop.txOpsDue_lt hhold heffect
      exact hlt
    · exact absurd hne (by simp [hdev, hresolve])
  have hno : CountsNoMore txOpsDue s.devs t.devs := by
    refine ⟨hlen, fun y v' w hv' hw => ?_⟩
    by_cases hy : y = x
    · subst hy
      cases hv.symm.trans hv'
      exact Nat.le_of_lt (hself w hw)
    · obtain ⟨u, ⟨hat, -⟩ | ⟨-, rfl⟩, hedge⟩ := exec_device i s t y v' w hexec hv' hw
      · exact absurd hat (by simp [hdev, htick, Ne.symm hy])
      · obtain ⟨p, rfl⟩ := edgeDelivered_update s t u w hedge
        exact Nat.le_refl _
  obtain ⟨hx, -⟩ := List.getElem?_eq_some_iff.mp hv
  have hw := List.getElem?_eq_getElem (hlen ▸ hx : x < t.devs.length)
  exact ⟨hsched, exec_now i s t hexec htick, .left _ _ (hno.total_lt hv hw (hself _ hw))⟩

end

/-! Each urgent operation answers, and with legal timing brings `TICK` closer. -/

section
variable {v w : Device}

theorem rxOpsDue_lt_of_edge_taken (hp : w.params = v.params) (hr : w.reasm_wait = v.reasm_wait) {d : Bool}
    (he : v.edge_pending = some d) (hw : w.edge_pending = none) : rxOpsDue w < rxOpsDue v := by
  simp [rxOpsDue, hp, hr, he, hw]

theorem rxOpsDue_lt_of_timer_restarted (hp : w.params = v.params) (he : w.edge_pending = v.edge_pending)
    (hpos : 1 ≤ v.params.t_reasm) (hr : v.params.t_reasm ≤ v.reasm_wait) (hw : w.reasm_wait = 0) :
    rxOpsDue w < rxOpsDue v := by
  have hrestarted : ¬v.params.t_reasm ≤ 0 := by omega
  simp [rxOpsDue, hp, he, hw, hr, hrestarted]

end

section
variable {s : State} {x : Nat} {v : Device} (hv : s.devs[x]? = some v)
include hv

theorem exec_edgeCase_closer (d : Bool) (he : v.edge_pending = some d) (hle : v.bit_offset ≤ s.cfg.N) :
    ∃ t, exec (edgeCase s.cfg x v d) s = .next t ∧ CloserToTick s t := by
  cases hrx : v.rx_enable with
  | false =>
    rw [edgeCase_of_masked s.cfg x v d hrx]
    exact ⟨_, (exec_edgeMasked_iff hv d _).mpr ⟨⟨he, hrx⟩, rfl⟩,
      .of_set hv rfl rfl rfl rfl (rxOpsDue_lt_of_edge_taken rfl rfl he rfl)⟩
  | true =>
    by_cases hfull : v.bit_offset = s.cfg.N
    · rw [edgeCase_of_full s.cfg x v d hrx hfull]
      exact ⟨_, (exec_edgeOverrun_iff hv d _).mpr ⟨⟨he, hrx, hfull⟩, rfl⟩,
        .of_set hv rfl rfl rfl rfl (rxOpsDue_lt_of_edge_taken rfl rfl he rfl)⟩
    · rw [edgeCase_of_room s.cfg x v d hrx hfull]
      exact ⟨_, (exec_sample_iff hv d _).mpr ⟨⟨he, hrx, by omega⟩, rfl⟩,
        .of_set hv rfl rfl rfl rfl (rxOpsDue_lt_of_edge_taken rfl rfl he rfl)⟩

theorem acceptFrame_closer (hpos : 1 ≤ v.params.t_reasm) (hr : v.params.t_reasm ≤ v.reasm_wait) :
    CloserToTick s (acceptFrame s x v) := by
  cases hq : queueHasRoom v with
  | true =>
    rw [acceptFrame_of_room s x v hq]
    exact .of_set hv rfl rfl rfl rfl (rxOpsDue_lt_of_timer_restarted rfl rfl hpos hr rfl)
  | false =>
    rw [acceptFrame_of_full s x v hq]
    exact .of_set hv rfl rfl rfl rfl (rxOpsDue_lt_of_timer_restarted rfl rfl hpos hr rfl)

theorem reasmCase_closer {t : State} (hpos : 1 ≤ v.params.t_reasm) (hr : v.params.t_reasm ≤ v.reasm_wait)
    (h : exec (reasmCase s.cfg x v) s = .next t) : CloserToTick s t := by
  unfold reasmCase at h
  split at h
  · split at h
    · obtain ⟨-, rfl⟩ := (exec_reasmAcceptSelf_iff hv t).mp h
      exact acceptFrame_closer hv hpos hr
    · split at h
      · obtain ⟨-, rfl⟩ := (exec_reasmAcceptCoord_iff hv t).mp h
        exact acceptFrame_closer hv hpos hr
      · obtain ⟨-, rfl⟩ := (exec_reasmReject_iff hv t).mp h
        exact .of_set hv rfl rfl rfl rfl (rxOpsDue_lt_of_timer_restarted rfl rfl hpos hr rfl)
  · split at h
    · obtain ⟨-, rfl⟩ := (exec_reasmAbandon_iff hv t).mp h
      exact .of_set hv rfl rfl rfl rfl (rxOpsDue_lt_of_timer_restarted rfl rfl hpos hr rfl)
    · obtain ⟨-, rfl⟩ := (exec_reasmNop_iff hv t).mp h
      exact .of_set hv rfl rfl rfl rfl (rxOpsDue_lt_of_timer_restarted rfl rfl hpos hr rfl)


/-- An enabled transmitter runs the operation of its phase, and the lines resolve, since no other device drives them. -/
theorem exec_txTurn_closer (hi : Inv s) (hen : txEnabled s.cfg v = true) :
    ∃ i t, fetchTurn s (txTurn x) = .instr i ∧ exec i s = .next t ∧ (1 ≤ s.cfg.t_bit_hold → CloserToTick s t) := by
  obtain ⟨hload, hsetup, hhigh, hlow, hframe, -, -⟩ := transmitterSelectsItsRow s x v hv
  have hdev := hi.deviceInv v (List.mem_of_getElem? hv)
  have hoff : v.tx_phase ≠ .off := fun hp => by simp [txEnabled, hp] at hen
  obtain ⟨-, hout, -, -⟩ := hdev.safe.transmitting (hdev.safe.mode_of_phase hoff)
  have hlisten := hi.link_safe.othersListen x v hv hout
  have runs : ∀ i t, IsTxOp x i → fetchTurn s (txTurn x) = .instr i → exec i s = .next t → t.sched = s.sched →
      ∃ i t, fetchTurn s (txTurn x) = .instr i ∧ exec i s = .next t ∧ (1 ≤ s.cfg.t_bit_hold → CloserToTick s t) :=
    fun i t hop hfetch hexec hsched => ⟨i, t, hfetch, hexec, .of_txOp hv hop hexec hsched⟩
  cases hp : v.tx_phase with
  | load =>
    have hk := hdev.ranges.index_in_cell (.inl hp)
    refine runs _ _ .data (hload hp)
      ((exec_txData_iff hv _).mpr ⟨⟨hp, hk⟩, resolveLink_setDev_of_output hv _ ?_ hlisten⟩) rfl
    exact hout
  | setup =>
    have hw : v.tx_wait = 0 := by simpa [txEnabled, hp] using hen
    refine runs _ _ .rise (by rw [hsetup hp, if_pos hw])
      ((exec_txRise_iff hv _).mpr ⟨⟨hp, hw⟩, resolveLink_setDev_of_output hv _ ?_ hlisten⟩) rfl
    exact hout
  | high =>
    have hw : v.tx_wait = 0 := by simpa [txEnabled, hp] using hen
    refine runs _ _ .fall (by rw [hhigh hp, if_pos hw])
      ((exec_txFall_iff hv _).mpr ⟨⟨hp, hw⟩, resolveLink_setDev_of_output hv _ ?_ hlisten⟩) rfl
    exact hout
  | low =>
    have ⟨hw, hk⟩ : v.tx_wait = 0 ∧ v.tx_index < s.cfg.N := by simpa [txEnabled, hp] using hen
    by_cases hlast : v.tx_index = s.cfg.N - 1
    · exact runs _ _ .framehold (by rw [hlow hp, if_pos hw, if_pos hlast])
        ((exec_txFramehold_iff hv _).mpr ⟨⟨hp, hw, hlast⟩, rfl⟩) rfl
    · exact runs _ _ .next (by rw [hlow hp, if_pos hw, if_neg hlast])
        ((exec_txNext_iff hv _).mpr ⟨⟨hp, hw, by omega⟩, rfl⟩) rfl
  | framehold =>
    have hw : v.tx_wait = 0 := by simpa [txEnabled, hp] using hen
    exact runs _ _ .finish (by rw [hframe hp, if_pos hw])
      ((exec_txEnd_iff hv _).mpr
        ⟨⟨hp, hw⟩, resolveLink_setDev_of_input (s := s.report (.sendReturned x)) hv _ rfl hlisten⟩) rfl
  | off | code6 | code7 => simp [txEnabled, hp] at hen

end

/-! What runs with nothing scheduled. -/

/-- The turn `u` of device `x` is one that rule R258 (b) puts before `TICK`. -/
inductive IsUrgent (c : Params) (x : Nat) (v : Device) : Turn → Prop
  | edge (d : Bool) (he : v.edge_pending = some d) : IsUrgent c x v (edgeTurn x)
  | transmitter (hen : txEnabled c v = true) : IsUrgent c x v (txTurn x)
  | overdue (hr : v.params.t_reasm ≤ v.reasm_wait) : IsUrgent c x v (reasmTurn x)

theorem exists_of_findIdx?_eq_some {s : State} {p : Device → Bool} {x : Nat} (h : s.devs.findIdx? p = some x) :
    ∃ v, s.devs[x]? = some v ∧ p v = true := by
  obtain ⟨hlt, hp, -⟩ := List.findIdx?_eq_some_iff_getElem.mp h
  exact ⟨s.devs[x], List.getElem?_eq_getElem hlt, hp⟩

theorem isUrgent_of_urgentTurn (s : State) (u : Turn) (h : urgentTurn s = some u) :
    ∃ x v, s.devs[x]? = some v ∧ IsUrgent s.cfg x v u := by
  unfold urgentTurn at h
  split at h
  · next x hx =>
    cases h
    obtain ⟨v, hv, he⟩ := exists_of_findIdx?_eq_some hx
    obtain ⟨d, hd⟩ := Option.isSome_iff_exists.mp he
    exact ⟨x, v, hv, .edge d hd⟩
  · split at h
    · next x hx =>
      cases h
      obtain ⟨v, hv, hen⟩ := exists_of_findIdx?_eq_some hx
      exact ⟨x, v, hv, .transmitter hen⟩
    · split at h
      · next x hx =>
        cases h
        obtain ⟨v, hv, hr⟩ := exists_of_findIdx?_eq_some hx
        exact ⟨x, v, hv, .overdue (of_decide_eq_true hr)⟩
      · cases h

/-- Where nothing is urgent, time may pass (rule R258 (b)). -/
theorem tickEnabled_of_urgentTurn_eq_none (s : State) (h : urgentTurn s = none) : tickEnabled s = true := by
  unfold urgentTurn at h
  split at h
  · cases h
  · next hedge =>
    split at h
    · cases h
    · next htx =>
      split at h
      · cases h
      · next hreasm =>
        refine List.all_eq_true.mpr fun v hv => ?_
        have he := List.findIdx?_eq_none_iff.mp hedge v hv
        have hen := List.findIdx?_eq_none_iff.mp htx v hv
        have hr := of_decide_eq_false (List.findIdx?_eq_none_iff.mp hreasm v hv)
        rw [letsTimePass, hen, decide_eq_true (Nat.lt_of_not_le hr), Option.isSome_eq_false_iff.mp he]
        rfl

theorem fetchTurn_tickTurn (s : State) : fetchTurn s tickTurn = .instr .tick := by
  have hvec := vectorOf_code s .env 0 Row.tick.pattern (by simp)
  have hrow : findRow .env Row.tick.pattern = some .tick := by decide
  rw [tickTurn, fetchTurn_op s .env 0 _ [] .tick .tick (by rw [hvec, hrow]) rfl]
  rfl

theorem afterFetch_of_sched_nil (s : State) (hs : s.sched = []) : afterFetch s = s := by
  rw [afterFetch_of_chooseTurn s _ _ (chooseTurn_of_sched_nil s hs), ← hs]

theorem step_of_sched_nil (s : State) (i : Instr) (hs : s.sched = [])
    (h : fetchTurn s ((urgentTurn s).getD tickTurn) = .instr i) : step s = exec i s := by
  have hfetch := (fetch_of_chooseTurn s _ _ (chooseTurn_of_sched_nil s hs)).trans h
  rw [step_of_fetch_instr s i hfetch, afterFetch_of_sched_nil s hs]

theorem step_of_urgentTurn_eq_none (s : State) (hs : s.sched = []) (h : urgentTurn s = none) :
    ∃ t, step s = .next t ∧ t.now = s.now + 1 := by
  have hfetch : fetchTurn s ((urgentTurn s).getD tickTurn) = .instr .tick := by rw [h]; exact fetchTurn_tickTurn s
  rw [step_of_sched_nil s .tick hs hfetch]
  exact ⟨_, (execTick_eq_next s _).mpr ⟨tickEnabled_of_urgentTurn_eq_none s h, rfl⟩, rfl⟩

theorem step_of_urgentTurn_eq_some (s : State) (u : Turn) (hi : Inv s) (hs : s.sched = []) (h : urgentTurn s = some u) :
    ∃ t, step s = .next t ∧ (TimingLegal s → CloserToTick s t) := by
  obtain ⟨x, v, hv, hurgent⟩ := isUrgent_of_urgentTurn s u h
  have hmem := List.mem_of_getElem? hv
  have hstep : ∀ i, fetchTurn s u = .instr i → step s = exec i s := fun i hfetch =>
    step_of_sched_nil s i hs (by rw [h]; exact hfetch)
  cases hurgent with
  | edge d he =>
    obtain ⟨t, ht, hcloser⟩ := exec_edgeCase_closer hv d he (hi.device_safe v hmem).offset_le
    exact ⟨t, (hstep _ (fetchTurn_of_edge hv d he)).trans ht, fun _ => hcloser⟩
  | transmitter hen =>
    obtain ⟨i, t, hfetch, ht, hcloser⟩ := exec_txTurn_closer hv hi hen
    exact ⟨t, (hstep i hfetch).trans ht, fun hlegal => hcloser hlegal.1⟩
  | overdue hr =>
    obtain ⟨t, -, ht, -, -⟩ := exec_reasmCase_restarts_timer hv
    exact ⟨t, (hstep _ (fetchTurn_reasmTurn hv)).trans ht, fun hlegal => reasmCase_closer hv (hlegal.2 v hmem).1 hr ht⟩

/-- No step changes what `TimingLegal` speaks of (rule R50). -/
theorem step_timingLegal (s t : State) (h : step s = .next t) (hl : TimingLegal s) : TimingLegal t := by
  obtain ⟨hc, -, hparams⟩ := parametersNeverChange s t h
  obtain ⟨hhold, hdev⟩ := hl
  refine ⟨hc ▸ hhold, fun w hw => ?_⟩
  obtain ⟨y, hy⟩ := List.mem_iff_getElem?.mp hw
  obtain ⟨v, hv⟩ := step_getElem?_of_getElem? s t y w h hy
  rw [hparams y v w hv hy, hc]
  exact hdev v (List.mem_of_getElem? hv)

theorem run_succ_of_step (s t : State) (n : Nat) (h : step s = .next t) :
    Host.Core.run core (n + 1) s = Host.Core.run core n t := by
  have hcore : core.step s = .next t := h
  simp only [Host.Core.run, hcore]

/-- While something is urgent it runs, and fewer operations are due; when nothing is, time advances. -/
theorem exists_run_to_tick (s : State) (hi : Inv s) (hl : TimingLegal s) (hs : s.sched = []) :
    ∃ n t, Host.Core.run core n s = .next t ∧ t.now = s.now + 1 := by
  cases hu : urgentTurn s with
  | none =>
    obtain ⟨t, ht, hnow⟩ := step_of_urgentTurn_eq_none s hs hu
    exact ⟨1, t, run_succ_of_step s t 0 ht, hnow⟩
  | some u =>
    obtain ⟨t, ht, hcloser⟩ := step_of_urgentTurn_eq_some s u hi hs hu
    have hdue := (hcloser hl).due
    obtain ⟨n, t', hrun, hnow⟩ := exists_run_to_tick t (invariantKept s t hi ht) (step_timingLegal s t ht hl)
      ((hcloser hl).sched.trans hs)
    exact ⟨n + 1, t', (run_succ_of_step s t n ht).trans hrun, by rw [hnow, (hcloser hl).now]⟩
termination_by opsDue s
decreasing_by exact hdue

end Sys2Proof.Machine

namespace Sys2Proof
open Machine

/-- Settles O47: what is urgent answers, and where nothing is urgent `TICK` does. -/
theorem noDeadlock : Obligations.NoDeadlock := by
  intro s hi hs
  cases hu : urgentTurn s with
  | none =>
    obtain ⟨t, ht, -⟩ := step_of_urgentTurn_eq_none s hs hu
    exact ⟨t, ht⟩
  | some u =>
    obtain ⟨t, ht, -⟩ := step_of_urgentTurn_eq_some s u hi hs hu
    exact ⟨t, ht⟩

/-- Settles O48. -/
theorem timeAdvances : Obligations.TimeAdvances := exists_run_to_tick

end Sys2Proof
end
